-- ==== Sys2Proof/Word.lean ====
section
/-! DEFINITION. The bit vectors of the spec's notation (R10, R60, R80). All values are unsigned (R12). -/

namespace Sys2Proof

/-- `Byte` of R10. -/
abbrev Byte := BitVec 8
/-- A 16-bit field: CTR, IV1H, IVL1H, RSV (R20, R80). -/
abbrev Half := BitVec 16
/-- `Word` of R10: a 32-bit register, a key schedule word, a command word. -/
abbrev Word := BitVec 32
/-- `Block` of R10. -/
abbrev Block := BitVec 64
/-- A byte offset in the 4096-byte register window (R60). -/
abbrev Offset := BitVec 12

end Sys2Proof
end

