-- ==== Sys2Proof/Syntax.lean ====
section
/-! DEFINITION. The commands of the opcode map (R82): one constructor per row of spec/opcode_table.json. -/

namespace Sys2Proof

/-- A command, with the ARG field (R83) where the opcode uses it. ARG stays the 8 bits of the command word. -/
inductive Instr where
  /-- NOP, R201. -/
  | nop
  /-- CLEAR, R202: soft reset. -/
  | clear
  /-- EXPAND, R113: key schedule; `len` is the presented seed length in bytes. -/
  | expand (len : Byte)
  /-- CTRRST, R185: restart the stream at counter 0. -/
  | ctrrst
  /-- WTRANS, R112: the word transform. -/
  | wtrans
  /-- SUBW, R111: substitute the bytes of a word. -/
  | subw
  /-- ROTW, R110: rotate a word. -/
  | rotw
  /-- ROUND k, R153: one round with round key `k`. -/
  | round (k : Byte)
  /-- ENCRYPT, R154: the 12-round block cipher. -/
  | encrypt
  /-- PERM, R150: the permutation step. -/
  | perm
  /-- SUBB, R151: the substitution step. -/
  | subb
  /-- KMIX k, R152: the key mixing step with round key `k`. -/
  | kmix (k : Byte)
  /-- KSBLK, R186: emit one keystream block. -/
  | ksblk
  /-- XSTART, R187: open a transform session. -/
  | xstart
  /-- XBLOCK, R188: transform the next (up to) 8 bytes. -/
  | xblock
deriving DecidableEq, Repr

end Sys2Proof
end

