-- ==== Sys2Proof/WellFormed.lean ====
section
/-! DEFINITION. Which commands have a legal word (R81): the round-key index of ROUND and KMIX is at most 11. -/

namespace Sys2Proof

/-- `i` has an encoding: R81 item 4 for ROUND and KMIX; every ARG of EXPAND is legal to decode; the others carry
no ARG. -/
def Instr.wf (i : Instr) : Bool :=
  match i with
  | .round k => decide (k.toNat ≤ 11)
  | .kmix k => decide (k.toNat ≤ 11)
  | .nop | .clear | .expand _ | .ctrrst | .wtrans | .subw | .rotw | .encrypt | .perm | .subb | .ksblk | .xstart
  | .xblock => true

end Sys2Proof
end

