-- ==== Sys2Proof/Decode.lean ====
section
/-! DEFINITION. The decoder and the encoder of command words (R80 to R85). A command is one 32-bit word taken whole
from the write to CMD (R70), so the decoder reads a word, and no byte order enters. -/

namespace Sys2Proof

/-- OP, bits 7:0 of a command word (R80). -/
def opField (v : Word) : Byte := v.extractLsb' 0 8

/-- ARG, bits 15:8 of a command word (R80, R83). -/
def argField (v : Word) : Byte := v.extractLsb' 8 8

/-- RSV, bits 31:16 of a command word (R80). -/
def rsvField (v : Word) : Half := v.extractLsb' 16 16

/-- Why a word is not legal (R81, R85). All four behave alike at a commit: IllegalCommand. Log 16. -/
inductive DecodeError where
  /-- RSV is not zero (R81 item 1). -/
  | reservedBits
  /-- OP is not one of the 15 opcodes of R82 (R81 item 2). -/
  | reservedOpcode
  /-- ARG is not zero on an opcode that does not use it (R81 item 3). -/
  | unusedArgument
  /-- ROUND or KMIX with ARG of 12 or more (R81 item 4). -/
  | argumentOutOfRange
deriving DecidableEq, Repr

/-- A command without ARG is legal with ARG zero only (R81 item 3). -/
def decodePlain (arg : Byte) (i : Instr) : Except DecodeError Instr :=
  if arg = 0 then .ok i else .error .unusedArgument

/-- A command whose ARG is a round-key index is legal with ARG at most 11 (R81 item 4). -/
def decodeIndexed (arg : Byte) (i : Instr) : Except DecodeError Instr :=
  if arg.toNat ≤ 11 then .ok i else .error .argumentOutOfRange

/-- The opcode map of R82. -/
def decodeOpcode (op arg : Byte) : Except DecodeError Instr :=
  match op.toNat with
  | 0x00 => decodePlain arg .nop
  | 0x01 => decodePlain arg .clear
  | 0x10 => .ok (.expand arg)
  | 0x11 => decodePlain arg .ctrrst
  | 0x20 => decodePlain arg .wtrans
  | 0x21 => decodePlain arg .subw
  | 0x22 => decodePlain arg .rotw
  | 0x30 => decodeIndexed arg (.round arg)
  | 0x31 => decodePlain arg .encrypt
  | 0x32 => decodePlain arg .perm
  | 0x33 => decodePlain arg .subb
  | 0x34 => decodeIndexed arg (.kmix arg)
  | 0x40 => decodePlain arg .ksblk
  | 0x41 => decodePlain arg .xstart
  | 0x42 => decodePlain arg .xblock
  | _ => .error .reservedOpcode

/-- The command a word stands for, or why it is illegal (R81). -/
def decode (v : Word) : Except DecodeError Instr :=
  if rsvField v = 0 then decodeOpcode (opField v) (argField v) else .error .reservedBits

/-- The opcode of a command (R82). -/
def opcode (i : Instr) : Byte :=
  match i with
  | .nop => 0x00
  | .clear => 0x01
  | .expand _ => 0x10
  | .ctrrst => 0x11
  | .wtrans => 0x20
  | .subw => 0x21
  | .rotw => 0x22
  | .round _ => 0x30
  | .encrypt => 0x31
  | .perm => 0x32
  | .subb => 0x33
  | .kmix _ => 0x34
  | .ksblk => 0x40
  | .xstart => 0x41
  | .xblock => 0x42

/-- The ARG of a command: zero where the opcode does not use it (R83). -/
def argument (i : Instr) : Byte :=
  match i with
  | .expand len => len
  | .round k => k
  | .kmix k => k
  | .nop | .clear | .ctrrst | .wtrans | .subw | .rotw | .encrypt | .perm | .subb | .ksblk | .xstart | .xblock => 0

/-- The command word of a command (R80, R84): RSV zero, then ARG, then OP. -/
def encode (i : Instr) : Word := (0 : Half) ++ argument i ++ opcode i

/-- The host's question about a row of the opcode table: the command the decoder reads from the word `w`. A
command has 32 bits; a number with a bit above them is no command word. -/
def decodeTableWord (nbits w : Nat) : Option Instr :=
  if w % 2 ^ nbits < 2 ^ 32 then (decode (BitVec.ofNat 32 (w % 2 ^ nbits))).toOption else none

end Sys2Proof
end

