-- ==== Sys2Proof/Config.lean ====
section
/-! DEFINITION. The values the spec leaves open: the two parameters of R9, and what a read during reset gives the host.
All are constants with no body: no proof can see a value of them, so a claim holds whatever they are. -/

namespace Sys2Proof

/-- One less than `LAT(op)` of R9 (so that LAT is at least 1, R254): the core cycles a command takes from its
acceptance to its commit. `draw` makes each accepted command's latency a value of its own, `word` is the command
word, `operands` the registers at its acceptance ("it may depend on the operands"). Log 3. -/
opaque Config.latExtra (draw : Nat) (word : Word) (operands : List Word) : Nat

/-- What the host's `n`-th read made while reset is asserted gives the host: R250 says that the core does not accept such
an access, and no rule says what its bus returns. Log 7. -/
opaque Config.lostRead (n : Nat) : Word

/-- `BASE` of R9 is 4096 times this. Log 5. -/
opaque Config.basePage : Nat

end Sys2Proof
end

