-- ==== Sys2Proof/Machine/State.lean ====
section
/-! DEFINITION. The state of one core (R20), with the port through which the outside reaches it, and the machine
right after reset (R43). -/

namespace Sys2Proof.Machine

/-- STATUS.STATE (R25, R170): the stream state. -/
inductive StreamState where
  /-- 0, NOKEY: no round keys yet. -/
  | noKey
  /-- 1, INIT: round keys and IV fixed, counter 0, no block emitted. -/
  | init
  /-- 2, STREAMING: at least one block emitted, at least one counter value left. -/
  | streaming
  /-- 3, EXHAUSTED: all 65536 counter values used. -/
  | exhausted
deriving DecidableEq, Repr

/-- The outcome codes of R211, by name. -/
inductive ErrorCode where
  /-- 0: every command that succeeds. -/
  | ok
  /-- 1: EXPAND with ARG other than 16 (R212). -/
  | invalidKeyLength
  /-- 2: reserved, never raised (R213). -/
  | shapeMismatch
  /-- 3: XSTART with a length past the end of the stream (R214). -/
  | streamTooLong
  /-- 4: a block asked of an exhausted stream (R215). -/
  | streamExhausted
  /-- 5: a command that needs round keys in NOKEY (R216). -/
  | noKey
  /-- 6: a word that is not legal (R217). -/
  | illegalCommand
  /-- 7: a stream request out of sequence (R218). -/
  | sequenceError
deriving DecidableEq, Repr

/-- PENDING (R41): the accepted command word and the core cycles left before it commits. -/
structure Pending where
  /-- The command word, as written to CMD. -/
  word : Word
  /-- The cycles left; 0 says that the commit is due. -/
  left : Nat
deriving DecidableEq, Repr

/-- The width of a host access (R62). -/
inductive Width where
  /-- 8 bits: not defined by the spec. -/
  | byte
  /-- 16 bits: not defined by the spec. -/
  | half
  /-- 32 bits: the one width of the window. -/
  | word
deriving DecidableEq, Repr

/-- A host access to the window, by byte offset (R60, R65, R66). -/
inductive Access where
  /-- A read at an offset. -/
  | read (w : Width) (off : Offset)
  /-- A write of a value at an offset. -/
  | write (w : Width) (off : Offset) (v : Word)
deriving DecidableEq, Repr

/-- What the outside presents to the core in one core cycle (R68, R250). Log 1. -/
inductive Slot where
  /-- No access. -/
  | idle
  /-- One host access; the port serves one at a time (R68). -/
  | access (a : Access)
  /-- The reset input is asserted, perhaps with a host access at the same time (R250). -/
  | resetHeld (a : Option Access)
deriving DecidableEq, Repr

/-- The state. The fields down to `pending` are the rows of R20, in its order; the last three are the model's own
(log 1, log 2, log 3). -/
structure State where
  /-- SEED[0..3] (R32). -/
  seed : Vector Word 4
  /-- IV0 (R33). -/
  iv0 : Word
  /-- IV1[31:16] (R33). -/
  iv1H : Half
  /-- IVL0 (R34). -/
  ivl0 : Word
  /-- IVL1[31:16] (R34). -/
  ivl1H : Half
  /-- LENGTH (R31). -/
  length : Word
  /-- WIN (R37). -/
  win : Word
  /-- WOUT (R37). -/
  wout : Word
  /-- BIN0 || BIN1 (R38). -/
  bin : Block
  /-- BOUT0 || BOUT1 (R39). -/
  bout : Block
  /-- KSW[0..23] (R35). -/
  ksw : Vector Word 24
  /-- CTR[15:0] (R29). -/
  ctr : Half
  /-- STATUS.STATE (R25). -/
  stream : StreamState
  /-- XREM (R30). -/
  xrem : Word
  /-- STATUS.ERR (R28). Log 10. -/
  err : BitVec 4
  /-- STATUS.DROP (R27). -/
  drop : Bool
  /-- STATUS.BUSY (R24). -/
  busy : Bool
  /-- PENDING (R41). -/
  pending : Option Pending
  /-- The model's own: the port slots the outside has yet to present, the next first. -/
  inbox : List Slot
  /-- The model's own: the values that reads at the port returned, the oldest first. Log 2. -/
  replies : List Word
  /-- The model's own: how many latencies have been drawn. -/
  draws : Nat
deriving DecidableEq, Repr

/-- Why the machine stops with a fault. The core has no trap mechanism (R222) and reports every error in
STATUS.ERR (R210), so there is no fault: the type has no constructor. -/
inductive Fault where
deriving DecidableEq, Repr

/-- Why the model gives a case no move. -/
inductive Refusal where
  /-- Raised by an arm of `exec` whose instruction has no meaning yet; no arm is so. Safe. -/
  | notModelled (mnemonic : String)
  /-- Raised by the port for an 8-bit or 16-bit access: R62 defines no behaviour and says that "a model must refuse
  such an access", during reset too. Safe. Log 6. -/
  | narrowAccess
deriving DecidableEq, Repr

/-- The machine right after reset (R43, R250): every register of R20 zero, STATE NOKEY, nothing pending. The outside
has presented nothing. -/
def State.reset : State where
  seed := Vector.replicate 4 0
  iv0 := 0
  iv1H := 0
  ivl0 := 0
  ivl1H := 0
  length := 0
  win := 0
  wout := 0
  bin := 0
  bout := 0
  ksw := Vector.replicate 24 0
  ctr := 0
  stream := .noKey
  xrem := 0
  err := 0
  drop := false
  busy := false
  pending := none
  inbox := []
  replies := []
  draws := 0

end Sys2Proof.Machine
end

