-- ==== Sys2Proof/Machine/Flags.lean ====
section
/-! DEFINITION. The fields of STATUS (R23): the codes of STATE and ERR, the computed bit XACTIVE and the whole word. -/

namespace Sys2Proof.Machine

/-- STATUS[2:1] for each stream state (R25). -/
def streamCode (st : StreamState) : BitVec 2 :=
  match st with
  | .noKey => 0
  | .init => 1
  | .streaming => 2
  | .exhausted => 3

/-- STATUS[11:8] for each outcome (R211). -/
def errCode (e : ErrorCode) : BitVec 4 :=
  match e with
  | .ok => 0
  | .invalidKeyLength => 1
  | .shapeMismatch => 2
  | .streamTooLong => 3
  | .streamExhausted => 4
  | .noKey => 5
  | .illegalCommand => 6
  | .sequenceError => 7

/-- STATUS.XACTIVE: a transform session is open (R26). -/
def xactive (s : State) : Bool := s.xrem != 0

/-- STATUS as a host reads it (R23, R65): `ERR || 0b000 || DROP || XACTIVE || STATE || BUSY`, zero-extended. -/
def statusWord (s : State) : Word :=
  (0 : BitVec 20) ++ s.err ++ (0 : BitVec 3) ++ BitVec.ofBool s.drop ++ BitVec.ofBool (xactive s)
    ++ streamCode s.stream ++ BitVec.ofBool s.busy

end Sys2Proof.Machine
end

