-- ==== Sys2Proof/Machine/Operands.lean ====
section
/-! DEFINITION. The operand forms of the commands: bytes of words and blocks (R11), the halves of the 64-bit register
pairs (R38, R39), the round keys (R36) and the counter block (R172). -/

namespace Sys2Proof.Machine

/-- `byte(w, j) = w[31-8j : 24-8j]` for `j` in 0..3 (R11). -/
def wordByte (w : Word) (j : Nat) : Byte := w.extractLsb' (24 - 8 * j) 8

/-- `byte(x, j) = x[63-8j : 56-8j]` for `j` in 0..7 (R11). -/
def blockByte (x : Block) (j : Nat) : Byte := x.extractLsb' (56 - 8 * j) 8

/-- `word(f 0, f 1, f 2, f 3)` (R11). -/
def wordOf (f : Nat → Byte) : Word := f 0 ++ f 1 ++ f 2 ++ f 3

/-- `block(f 0, ..., f 7)` (R11). -/
def blockOf (f : Nat → Byte) : Block := f 0 ++ f 1 ++ f 2 ++ f 3 ++ f 4 ++ f 5 ++ f 6 ++ f 7

/-- Bits 63:32 of a block: BIN0 or BOUT0 (R38, R39). -/
def highWord (x : Block) : Word := x.extractLsb' 32 32

/-- Bits 31:0 of a block: BIN1 or BOUT1 (R38, R39). -/
def lowWord (x : Block) : Word := x.extractLsb' 0 32

/-- A 16-bit IV half as the register shows it: in bits 31:16, bits 15:0 zero (R33, R34). -/
def ivHalfWord (h : Half) : Word := h ++ (0 : Half)

/-- KSW entry `i`; zero past the file's end, which no rule reads. -/
def kswAt (ksw : Vector Word 24) (i : Nat) : Word := ksw[i]?.getD 0

/-- `RK(k) = KSW[2k] || KSW[2k+1]` (R36). -/
def roundKey (ksw : Vector Word 24) (k : Nat) : Block := kswAt ksw (2 * k) ++ kswAt ksw (2 * k + 1)

/-- `CB(c) = IVL0 || IVL1H || c` (R172, R64), with the latched IV. -/
def counterBlock (ivl0 : Word) (ivl1H : Half) (c : Half) : Block := ivl0 ++ ivl1H ++ c

/-- `ceil_div(a, b)` on natural numbers, without overflow (R12). -/
def ceilDiv (a b : Nat) : Nat := (a + b - 1) / b

end Sys2Proof.Machine
end

