-- ==== Sys2Proof/Machine/Ops.lean ====
section
/-! DEFINITION. The shared operations of the commands and of the port: the end of a command, with success or with an
error (R200, R210), reset (R250), the acceptance of a command (R200), and the updates several commands share. -/

namespace Sys2Proof.Machine

/-- The end of a command (R200): ERR takes the outcome, BUSY falls and PENDING is none. -/
def finish (e : ErrorCode) (s : State) : State :=
  { s with err := errCode e, busy := false, pending := none }

/-- The normal end (R200): `s` holds the command's writes, which commit with ERR = OK. -/
def commitOk (s : State) : Host.Outcome State Fault Refusal := .next (finish .ok s)

/-- Taking an error (R13, R210): nothing but ERR changes, and the command ends. `s` is the state before the command.
There is no return from an error: it saves nothing and redirects nothing (R222). -/
def raiseError (e : ErrorCode) (s : State) : Host.Outcome State Fault Refusal := .next (finish e s)

/-- The first check of every command that needs round keys (R152, R153, R154, R185 to R188): in NOKEY it raises NoKey
(R216). -/
def withKey (s : State) (run : Host.Outcome State Fault Refusal) : Host.Outcome State Fault Refusal :=
  if s.stream = .noKey then raiseError .noKey s else run

/-- Every field of R20 at its value in R43, for reset (R250) and CLEAR (R202). The port's own fields, which are not the
core's, stay (log 8). -/
def resetCore (s : State) : State :=
  { State.reset with inbox := s.inbox, replies := s.replies, draws := s.draws }

/-- The registers a latency may depend on (R9: "it may depend on the operands"): every one a command reads. -/
def operandImage (s : State) : List Word :=
  s.seed.toList ++ [s.iv0, ivHalfWord s.iv1H, s.ivl0, ivHalfWord s.ivl1H, s.length, s.win, highWord s.bin,
    lowWord s.bin, s.ctr.setWidth 32, (streamCode s.stream).setWidth 32, s.xrem] ++ s.ksw.toList

/-- `LAT(op)` (R9, R254): at least 1, otherwise free. -/
def latency (v : Word) (s : State) : Nat := Config.latExtra s.draws v (operandImage s) + 1

/-- The acceptance of a command word (R200): BUSY rises at once and PENDING holds the word for `LAT(op)` cycles. -/
def startCommand (v : Word) (s : State) : State :=
  { s with busy := true, pending := some ⟨v, latency v s⟩, draws := s.draws + 1 }

/-- A write that arrives while BUSY = 1 (R66, R256): DROP is set and nothing else happens. -/
def markDropped (s : State) : State := { s with drop := true }

/-- What a read hands to the host (R65): recorded for the observer, no side effect in the core. -/
def recordReply (v : Word) (s : State) : State := { s with replies := s.replies ++ [v] }

/-- The staging IV is copied into the latched IV (R34, R113, R185). -/
def latchIv (s : State) : State := { s with ivl0 := s.iv0, ivl1H := s.iv1H }

/-- The stream starts at counter 0 and any open session is closed (R113, R185). -/
def restartStream (s : State) : State := { s with ctr := 0, stream := .init, xrem := 0 }

/-- `blocks_left()` (R171). -/
def blocksLeft (s : State) : Nat :=
  match s.stream with
  | .noKey | .exhausted => 0
  | .init | .streaming => 65536 - s.ctr.toNat

end Sys2Proof.Machine
end

