-- ==== Sys2Proof/Machine/Control.lean ====
section
/-! DEFINITION. The control commands NOP and CLEAR (R201, R202), and what an illegal word does (R85, R200). -/

namespace Sys2Proof.Machine

/-- NOP (R201): ERR only. -/
def execNop (s : State) : Host.Outcome State Fault Refusal := commitOk s

/-- CLEAR (R202): every field of R20 takes its reset value, ERR = 0 among them. -/
def execClear (s : State) : Host.Outcome State Fault Refusal := commitOk (resetCore s)

/-- The commit of a word that is not legal (R200, R217). -/
def runIllegal (s : State) : Host.Outcome State Fault Refusal := raiseError .illegalCommand s

end Sys2Proof.Machine
end

