-- ==== Sys2Proof/Machine/RoundEngine.lean ====
section
/-! DEFINITION. The round engine (R140 to R154): the permutation, the substitution and the key mix of a block, the
round, the 12-round cipher, and the commands PERM, SUBB, KMIX, ROUND and ENCRYPT. -/

namespace Sys2Proof.Machine

/-- The permutation table PT (R140), 1-based. -/
def permutationTable : List Nat := [6, 1, 3, 8, 2, 7, 5, 4]

/-- `σ(i) = PT[i] - 1` (R140). -/
def sigma (i : Nat) : Nat := permutationTable.getD i 0 - 1

/-- `Permute(x)` (R141): every byte is read from the input. -/
def permute (x : Block) : Block := blockOf fun i => blockByte x (sigma i)

/-- `SubBlock(x)` (R143). -/
def subBlock (x : Block) : Block := blockOf fun i => sbox (blockByte x i)

/-- `KeyMix(x, rk)` (R144). -/
def keyMix (x rk : Block) : Block := x ^^^ rk

/-- `BlockRound(x, rk)` (R145). -/
def blockRound (x rk : Block) : Block := keyMix (subBlock (permute x)) rk

/-- The rounds `first, first + 1, ...` of R146, `count` of them. -/
def blockRounds (ksw : Vector Word 24) (first count : Nat) (x : Block) : Block :=
  match count with
  | 0 => x
  | n + 1 => blockRounds ksw (first + 1) n (blockRound x (roundKey ksw first))

/-- `BlockCipher(x)` (R146): rounds 0 to 11. -/
def blockCipher (ksw : Vector Word 24) (x : Block) : Block := blockRounds ksw 0 12 x

/-- PERM (R150). -/
def execPerm (s : State) : Host.Outcome State Fault Refusal :=
  commitOk { s with bout := permute s.bin }

/-- SUBB (R151). -/
def execSubb (s : State) : Host.Outcome State Fault Refusal :=
  commitOk { s with bout := subBlock s.bin }

/-- KMIX k (R152). An index of 12 or more has no legal word (R81); IllegalCommand comes before NoKey (R219). Log 11. -/
def execKmix (k : Byte) (s : State) : Host.Outcome State Fault Refusal :=
  if k.toNat > 11 then raiseError .illegalCommand s
  else withKey s (commitOk { s with bout := keyMix s.bin (roundKey s.ksw k.toNat) })

/-- ROUND k (R153). An index of 12 or more has no legal word (R81); IllegalCommand comes before NoKey (R219). Log 11. -/
def execRound (k : Byte) (s : State) : Host.Outcome State Fault Refusal :=
  if k.toNat > 11 then raiseError .illegalCommand s
  else withKey s (commitOk { s with bout := blockRound s.bin (roundKey s.ksw k.toNat) })

/-- ENCRYPT (R154). -/
def execEncrypt (s : State) : Host.Outcome State Fault Refusal :=
  withKey s (commitOk { s with bout := blockCipher s.ksw s.bin })

end Sys2Proof.Machine
end

