-- ==== Sys2Proof/Machine/CounterMode.lean ====
section
/-! DEFINITION. The counter-mode keystream generator (R170 to R188): the emission of a keystream block and the commands
CTRRST, KSBLK, XSTART and XBLOCK. -/

namespace Sys2Proof.Machine

/-- The keystream block an emission returns (R173): `BlockCipher(CB(CTR))`. -/
def keystreamBlock (s : State) : Block := blockCipher s.ksw (counterBlock s.ivl0 s.ivl1H s.ctr)

/-- What an emission does to the stream (R173): the counter never wraps (R174). -/
def advanceCounter (s : State) : State :=
  if s.ctr = 0xFFFF then { s with stream := .exhausted }
  else { s with ctr := s.ctr + 1, stream := .streaming }

/-- The bytes an XBLOCK produces (R188): byte `j` of the mask is 0xFF for `j < n`, else 0x00. -/
def leadingMask (n : Nat) : Block := blockOf fun j => if j < n then 0xFF else 0x00

/-- The number of bytes the next XBLOCK transforms (R188): `min(8, XREM)`. -/
def chunkSize (s : State) : Nat := min 8 s.xrem.toNat

/-- CTRRST (R185). -/
def execCtrrst (s : State) : Host.Outcome State Fault Refusal :=
  withKey s (commitOk (restartStream (latchIv s)))

/-- KSBLK (R186). -/
def execKsblk (s : State) : Host.Outcome State Fault Refusal :=
  withKey s <|
    if s.xrem ≠ 0 then raiseError .sequenceError s
    else if s.stream = .exhausted then raiseError .streamExhausted s
    else commitOk { advanceCounter s with bout := keystreamBlock s }

/-- XSTART (R187): the length is checked before any block is emitted (R177). -/
def execXstart (s : State) : Host.Outcome State Fault Refusal :=
  withKey s <|
    if s.xrem ≠ 0 then raiseError .sequenceError s
    else if ceilDiv s.length.toNat 8 > blocksLeft s then raiseError .streamTooLong s
    else commitOk { s with xrem := s.length }

/-- XBLOCK (R188). -/
def execXblock (s : State) : Host.Outcome State Fault Refusal :=
  withKey s <|
    if s.xrem = 0 then raiseError .sequenceError s
    else if s.stream = .exhausted then raiseError .streamExhausted s
    else commitOk { advanceCounter s with
      bout := (s.bin ^^^ keystreamBlock s) &&& leadingMask (chunkSize s)
      xrem := s.xrem - BitVec.ofNat 32 (chunkSize s) }

end Sys2Proof.Machine
end

