-- ==== Sys2Proof/Machine/KeySchedule.lean ====
section
/-! DEFINITION. The key schedule unit (R103 to R113): the word transform and its steps, the key schedule, and the
commands ROTW, SUBW, WTRANS and EXPAND. -/

namespace Sys2Proof.Machine

/-- `RotWord(w)` (R103). -/
def rotWord (w : Word) : Word :=
  wordByte w 1 ++ wordByte w 2 ++ wordByte w 3 ++ wordByte w 0

/-- `SubWord(w)` (R104). -/
def subWord (w : Word) : Word := wordOf fun j => sbox (wordByte w j)

/-- `WordTransform(w)` (R105), with no round constant (R106). -/
def wordTransform (w : Word) : Word := subWord (rotWord w) ^^^ 0xFF000000

/-- KSW[i] from KSW[0..i-1], where `i` is the length of `known` (the loop body of R107). -/
def nextScheduleWord (known : List Word) : Word :=
  let i := known.length
  let previous := known.getD (i - 1) 0
  let fourBack := known.getD (i - 4) 0
  if i % 4 = 0 then wordTransform previous ^^^ fourBack else previous ^^^ fourBack

/-- `n` turns of the loop of R107. -/
def scheduleLoop (n : Nat) (known : List Word) : List Word :=
  match n with
  | 0 => known
  | m + 1 => scheduleLoop m (known ++ [nextScheduleWord known])

/-- `KeySchedule(s)` (R107): the four seed words, then the words 4 to 23. -/
def keySchedule (seed : Vector Word 4) : Vector Word 24 :=
  let words := scheduleLoop 20 seed.toList
  Vector.ofFn fun i : Fin 24 => words.getD i.val 0

/-- ROTW (R110). -/
def execRotw (s : State) : Host.Outcome State Fault Refusal :=
  commitOk { s with wout := rotWord s.win }

/-- SUBW (R111). -/
def execSubw (s : State) : Host.Outcome State Fault Refusal :=
  commitOk { s with wout := subWord s.win }

/-- WTRANS (R112). -/
def execWtrans (s : State) : Host.Outcome State Fault Refusal :=
  commitOk { s with wout := wordTransform s.win }

/-- EXPAND (R113): only a seed length of 16 bytes is accepted (R212). -/
def execExpand (len : Byte) (s : State) : Host.Outcome State Fault Refusal :=
  if len ≠ 16 then raiseError .invalidKeyLength s
  else commitOk (restartStream (latchIv { s with ksw := keySchedule s.seed }))

end Sys2Proof.Machine
end

