-- ==== Sys2Proof/Machine/Dispatch.lean ====
section
/-! DEFINITION. The commit of a legal command (R200): one arm per constructor, each a call of its meaning. -/

namespace Sys2Proof.Machine

def exec (i : Instr) (s : State) : Host.Outcome State Fault Refusal :=
  match i with
  | .nop => Sys2Proof.Machine.execNop s
  | .clear => Sys2Proof.Machine.execClear s
  | .expand len => Sys2Proof.Machine.execExpand len s
  | .ctrrst => Sys2Proof.Machine.execCtrrst s
  | .wtrans => Sys2Proof.Machine.execWtrans s
  | .subw => Sys2Proof.Machine.execSubw s
  | .rotw => Sys2Proof.Machine.execRotw s
  | .round k => Sys2Proof.Machine.execRound k s
  | .encrypt => Sys2Proof.Machine.execEncrypt s
  | .perm => Sys2Proof.Machine.execPerm s
  | .subb => Sys2Proof.Machine.execSubb s
  | .kmix k => Sys2Proof.Machine.execKmix k s
  | .ksblk => Sys2Proof.Machine.execKsblk s
  | .xstart => Sys2Proof.Machine.execXstart s
  | .xblock => Sys2Proof.Machine.execXblock s

end Sys2Proof.Machine
end

