-- ==== Sys2Proof/Machine/Window.lean ====
section
/-! DEFINITION. The register window (R60 to R66): the registers by offset, and the host's reads and writes. -/

namespace Sys2Proof.Machine

/-- The registers of the window (R61). -/
inductive Reg where
  | cmd
  | status
  | ctr
  | xrem
  | length
  | seed (i : Fin 4)
  | iv0
  | iv1
  | ivl0
  | ivl1
  | win
  | wout
  | bin0
  | bin1
  | bout0
  | bout1
  | ksw (i : Fin 24)
deriving DecidableEq, Repr

/-- Offset bits [1:0] are not decoded (R62): `off & 0xFFC`. -/
def alignedOffset (off : Offset) : Offset := off &&& 0xFFC

/-- The register at an offset, or none where the offset is unmapped (R61). -/
def regAt (off : Offset) : Option Reg :=
  match (alignedOffset off).toNat with
  | 0x000 => some .cmd
  | 0x004 => some .status
  | 0x008 => some .ctr
  | 0x00C => some .xrem
  | 0x010 => some .length
  | 0x020 => some (.seed 0)
  | 0x024 => some (.seed 1)
  | 0x028 => some (.seed 2)
  | 0x02C => some (.seed 3)
  | 0x030 => some .iv0
  | 0x034 => some .iv1
  | 0x038 => some .ivl0
  | 0x03C => some .ivl1
  | 0x040 => some .win
  | 0x044 => some .wout
  | 0x050 => some .bin0
  | 0x054 => some .bin1
  | 0x058 => some .bout0
  | 0x05C => some .bout1
  | n => if h : 0x100 ≤ n ∧ n < 0x160 then some (.ksw ⟨(n - 0x100) / 4, by omega⟩) else none

/-- `off(reg)`: a register's own offset (R61, R86). -/
def offsetOf (r : Reg) : Offset :=
  match r with
  | .cmd => 0x000
  | .status => 0x004
  | .ctr => 0x008
  | .xrem => 0x00C
  | .length => 0x010
  | .seed i => BitVec.ofNat 12 (0x020 + 4 * i.val)
  | .iv0 => 0x030
  | .iv1 => 0x034
  | .ivl0 => 0x038
  | .ivl1 => 0x03C
  | .win => 0x040
  | .wout => 0x044
  | .bin0 => 0x050
  | .bin1 => 0x054
  | .bout0 => 0x058
  | .bout1 => 0x05C
  | .ksw i => BitVec.ofNat 12 (0x100 + 4 * i.val)

/-- The value a register shows (R65). CMD has no storage and reads as zero (R22). -/
def readReg (r : Reg) (s : State) : Word :=
  match r with
  | .cmd => 0
  | .status => statusWord s
  | .ctr => s.ctr.setWidth 32
  | .xrem => s.xrem
  | .length => s.length
  | .seed i => s.seed[i]
  | .iv0 => s.iv0
  | .iv1 => ivHalfWord s.iv1H
  | .ivl0 => s.ivl0
  | .ivl1 => ivHalfWord s.ivl1H
  | .win => s.win
  | .wout => s.wout
  | .bin0 => highWord s.bin
  | .bin1 => lowWord s.bin
  | .bout0 => highWord s.bout
  | .bout1 => lowWord s.bout
  | .ksw i => s.ksw[i]

/-- `MemRead(off, 4)` (R65): an unmapped offset reads as zero. -/
def memRead (off : Offset) (s : State) : Word :=
  match regAt off with
  | some r => readReg r s
  | none => 0

/-- An accepted write of a register (R66). A write to CMD starts the command; a write to a read-only register is
ignored; IV1[15:0] are ignored (R33). -/
def writeReg (r : Reg) (v : Word) (s : State) : State :=
  match r with
  | .cmd => startCommand v s
  | .length => { s with length := v }
  | .seed i => { s with seed := s.seed.set i v }
  | .iv0 => { s with iv0 := v }
  | .iv1 => { s with iv1H := v.extractLsb' 16 16 }
  | .win => { s with win := v }
  | .bin0 => { s with bin := v ++ lowWord s.bin }
  | .bin1 => { s with bin := highWord s.bin ++ v }
  | .status | .ctr | .xrem | .ivl0 | .ivl1 | .wout | .bout0 | .bout1 | .ksw _ => s

/-- `MemWrite(off, 4, v)` (R66): dropped while BUSY = 1; a write to an unmapped offset is ignored. Log 14. -/
def memWrite (off : Offset) (v : Word) (s : State) : State :=
  if s.busy then markDropped s
  else match regAt off with
    | some r => writeReg r v s
    | none => s

end Sys2Proof.Machine
end

