-- ==== Sys2Proof/Machine/Port.lean ====
section
/-! DEFINITION. The host port (R68, R72): one core cycle's slot of what the outside presents, and the place of the
window in the host's address space (R9). -/

namespace Sys2Proof.Machine

/-- One host access, outside reset. Every access is 32 bits wide; a narrower one is refused (R62, H4). -/
def serveAccess (a : Access) (s : State) : Host.Outcome State Fault Refusal :=
  match a with
  | .read .word off => .next (recordReply (memRead off s) s)
  | .write .word off v => .next (memWrite off v s)
  | .read .byte _ | .read .half _ | .write .byte _ _ | .write .half _ _ => .refused .narrowAccess

/-- An access that R62 does not define: any but a 32-bit one. -/
def isNarrow (a : Access) : Bool :=
  match a with
  | .read .word _ | .write .word _ _ => false
  | .read .byte _ | .read .half _ | .write .byte _ _ | .write .half _ _ => true

/-- One slot. While reset is held every field has its reset value, a command in progress is abandoned, and an access is
not accepted, has no effect and does not set DROP (R250). A narrow access is refused then as well: R62 makes no exception
(log 6). Log 7, log 9. -/
def serveSlot (slot : Slot) (s : State) : Host.Outcome State Fault Refusal :=
  match slot with
  | .idle => .next s
  | .access a => serveAccess a s
  | .resetHeld a => if a.any isNarrow then .refused .narrowAccess else .next (resetCore s)

/-- The port in one core cycle: the next slot, or nothing where the outside presents nothing more. Log 15. -/
def servePort (s : State) : Host.Outcome State Fault Refusal :=
  match s.inbox with
  | [] => .next s
  | slot :: rest => serveSlot slot { s with inbox := rest }

/-- `BASE` (R9): a multiple of 4096. -/
def windowBase : Nat := 4096 * Config.basePage

/-- The offset in the window that a host address reaches, or none outside the window (R9, R60). -/
def windowOffset (addr : Nat) : Option Offset :=
  if windowBase ≤ addr ∧ addr < windowBase + 4096 then some (BitVec.ofNat 12 (addr - windowBase)) else none

/-- What a host access at an address is to this core: an access outside its window does not reach it, and the cycle
is idle for it (R60, R225). Log 5. -/
def slotAtAddress (addr : Nat) (access : Offset → Access) : Slot :=
  match windowOffset addr with
  | some off => .access (access off)
  | none => .idle

end Sys2Proof.Machine
end

