-- ==== Sys2Proof/Machine/Sequencer.lean ====
section
/-! DEFINITION. The command sequencer (R200, R254, R255): the countdown of a pending command and its commit. -/

namespace Sys2Proof.Machine

/-- The commit of a command word (R200): a legal word runs its opcode's rule, any other raises IllegalCommand. -/
def commitWord (v : Word) (s : State) : Host.Outcome State Fault Refusal :=
  match decode v with
  | .ok i => exec i s
  | .error _ => runIllegal s

/-- A pending command that is not due has one core cycle less to go (R200). -/
def countDown (s : State) : State :=
  match s.pending with
  | some ⟨v, n + 1⟩ => { s with pending := some ⟨v, n⟩ }
  | some ⟨_, 0⟩ | none => s

/-- The commit of the pending command is due. -/
def commitDue (s : State) : Bool :=
  match s.pending with
  | some ⟨_, 0⟩ => true
  | some ⟨_, _ + 1⟩ | none => false

/-- One step. A command whose latency has run out commits, at an instant between two core cycles: no port slot passes
(R69). Otherwise one core cycle passes: a pending command has one cycle less to go, and the port serves one slot, which
still sees BUSY = 1 and the values from before the command (R255). Log 4. -/
def sequencerStep (s : State) : Host.Outcome State Fault Refusal :=
  match s.pending with
  | some ⟨v, 0⟩ => commitWord v s
  | some ⟨_, _ + 1⟩ | none => servePort (countDown s)

/-- `s` with the command word `v` accepted and its latency run out: the very next step commits it. -/
def placeCommand (v : Word) (s : State) : State :=
  { s with busy := true, pending := some ⟨v, 0⟩ }

end Sys2Proof.Machine
end

