-- ==== Sys2Proof/Machine/Step.lean ====
section
/-! DEFINITION. The step of the machine, and how the host's question places a command. -/

namespace Sys2Proof.Machine

/-- One step of the core and its port. -/
def step (s : State) : Host.Outcome State Fault Refusal := sequencerStep s

/-- `s` with the command of the bits `w` where the next step takes its command from: PENDING, due (log 1). -/
def State.withFetchWord (s : State) (nbits w : Nat) : State :=
  placeCommand (BitVec.ofNat 32 (w % 2 ^ nbits)) s

end Sys2Proof.Machine
end

