-- ==== Sys2Proof/Machine/HostAsm.lean ====
section
/-! DEFINITION. The host as the spec describes it above the core: the host assembler (R86), its pseudo-instructions
(R87), the use sequence (R253) and the end of a host program with its observable result (R263). The host's names and
its position are its own state, not the core's; the core's step knows nothing of this file. How the host's operations
fall on core cycles is open in the spec (R257, R261) and is data of the host's state here. -/

namespace Sys2Proof.Machine

/-- `<val>` of R86: an immediate or a host-side name (names are numbered). -/
inductive HostVal where
  | imm (v : Word)
  | name (n : Nat)
deriving DecidableEq, Repr

/-- The operations of R86. A label is the position of the operation it stands before. -/
inductive HostOp where
  /-- `WR <reg>, <val>`. -/
  | wr (r : Reg) (v : HostVal)
  /-- `RD <reg> -> <name>`. -/
  | rd (r : Reg) (n : Nat)
  /-- `CMD <mnemonic> [<arg>]`. -/
  | cmd (i : Instr)
  /-- `BNZ <name>, <mask>, <label>`. -/
  | bnz (n : Nat) (mask : Word) (target : Nat)
  /-- `BZ <name>, <mask>, <label>`. -/
  | bz (n : Nat) (mask : Word) (target : Nat)
  /-- `SET <name>, <imm>`. -/
  | set (n : Nat) (v : Word)
  /-- `ADD <name>, <imm>`, modulo 2^32. -/
  | add (n : Nat) (v : Word)
  /-- `DEC <name>`, modulo 2^32. -/
  | dec (n : Nat)
deriving DecidableEq, Repr

/-- What the outside does next while a host program runs. R86 gives the operations of a program and no times, so the turns
are data: a statement about every list of them is about every timing of the host (R257, log 13). -/
inductive HostTurn where
  /-- The program goes on: a bus operation presents its access in the core cycle that passes; a host-side operation is
  done at once, with no core cycle. Past the program's end an idle cycle passes. -/
  | proceeds
  /-- A core cycle passes in which the program does nothing. -/
  | waits
  /-- A core cycle passes in which the reset input is asserted (R250), while the host presents its next access, or none. -/
  | reset (presents : Bool)
deriving DecidableEq, Repr

/-- A host running its program on one core. -/
structure HostState where
  /-- The program. -/
  program : List HostOp
  /-- The position of the next operation. -/
  pc : Nat
  /-- The host-side names and their values. -/
  names : List (Nat × Word)
  /-- The core the host drives, with the slots already at its port. -/
  core : State
  /-- The turns to come, the next first; past their end the host waits, and core cycles pass (log 13). -/
  turns : List HostTurn
  /-- How many accesses were made while reset was asserted (log 7). -/
  lost : Nat
  /-- The values that the program's own reads returned, the oldest first (R263). -/
  reads : List Word
deriving DecidableEq, Repr

/-- The value of a name; a name never set has the value zero (log 13). -/
def nameValue (names : List (Nat × Word)) (n : Nat) : Word :=
  match names with
  | [] => 0
  | (m, v) :: rest => if m = n then v else nameValue rest n

/-- The names with `n` set to `v`. -/
def setName (names : List (Nat × Word)) (n : Nat) (v : Word) : List (Nat × Word) :=
  (n, v) :: names.filter fun e => e.1 != n

/-- The value of a `<val>`. -/
def hostValue (names : List (Nat × Word)) (v : HostVal) : Word :=
  match v with
  | .imm w => w
  | .name n => nameValue names n

/-- The bus access of an operation, or none where it is host-side (R86, column "encoding"). -/
def busAccess (names : List (Nat × Word)) (op : HostOp) : Option Access :=
  match op with
  | .wr r v => some (.write .word (offsetOf r) (hostValue names v))
  | .rd r _ => some (.read .word (offsetOf r))
  | .cmd i => some (.write .word (offsetOf .cmd) (encode i))
  | .bnz _ _ _ | .bz _ _ _ | .set _ _ | .add _ _ | .dec _ => none

/-- The effect of an operation on the host's own state, once its bus access, if it has one, is done and has returned
`reply` (R86). A read's value is recorded for the observer (R263). -/
def hostEffect (op : HostOp) (reply : Word) (h : HostState) : HostState :=
  match op with
  | .wr _ _ | .cmd _ => { h with pc := h.pc + 1 }
  | .rd _ n => { h with pc := h.pc + 1, names := setName h.names n reply, reads := h.reads ++ [reply] }
  | .bnz n mask target =>
    { h with pc := if nameValue h.names n &&& mask ≠ 0 then target else h.pc + 1 }
  | .bz n mask target =>
    { h with pc := if nameValue h.names n &&& mask = 0 then target else h.pc + 1 }
  | .set n v => { h with pc := h.pc + 1, names := setName h.names n v }
  | .add n v => { h with pc := h.pc + 1, names := setName h.names n (nameValue h.names n + v) }
  | .dec n => { h with pc := h.pc + 1, names := setName h.names n (nameValue h.names n - 1) }

/-- The core's step, seen from the host: what the host makes of the next state of the core. -/
def withCore (o : Host.Outcome State Fault Refusal) (resume : State → HostState) :
    Host.Outcome HostState Fault Refusal :=
  match o with
  | .next c => .next (resume c)
  | .fault r => .fault r
  | .refused r => .refused r

/-- The access that the program is about to make, with its operation: none where the next operation is host-side, and at the
program's end. -/
def nextAccess (h : HostState) : Option (HostOp × Access) :=
  match h.program[h.pc]? with
  | some op => (busAccess h.names op).map fun a => (op, a)
  | none => none

/-- The next operation where it is host-side (R86). -/
def localOp (h : HostState) : Option HostOp :=
  match h.program[h.pc]? with
  | some op => if busAccess h.names op = none then some op else none
  | none => none

/-- The port slot of a core cycle in which the program is about to make the access `a`, or is not about to make one. -/
def turnSlot (turn : HostTurn) (a : Option Access) : Slot :=
  match turn, a with
  | .proceeds, some a => .access a
  | .proceeds, none | .waits, _ => .idle
  | .reset true, a => .resetHeld a
  | .reset false, _ => .resetHeld none

/-- What the host makes of a core cycle after it, where `c` is the core then. An access that was presented is done, also
one presented during reset, which the core did not accept (R250): a read then gives its name an open value (log 7). -/
def afterCycle (turn : HostTurn) (next : Option (HostOp × Access)) (h : HostState) (c : State) : HostState :=
  let g := { h with core := c, turns := h.turns.tail }
  match turn, next with
  | .proceeds, some (op, _) => hostEffect op (c.replies.getLastD 0) g
  | .reset true, some (op, _) => { hostEffect op (Config.lostRead h.lost) g with lost := h.lost + 1 }
  | .proceeds, none | .waits, _ | .reset true, none | .reset false, _ => g

/-- One core cycle under the host, as the turn says. -/
def hostCycle (turn : HostTurn) (h : HostState) : Host.Outcome HostState Fault Refusal :=
  let next := nextAccess h
  withCore (step { h.core with inbox := [turnSlot turn (next.map Prod.snd)] }) (afterCycle turn next h)

/-- One step of host and core together. A commit that is due, and the slots that others put at the port before, come first
and the program waits: nothing at the port is lost (R68). Otherwise the next turn is taken. A host-side operation takes no
core cycle, but cycles may pass before it, so the core goes on while a program loops without an access. R86 and R257 leave
the timing open: DESIGN CHOICE, log 13. -/
def hostStep (h : HostState) : Host.Outcome HostState Fault Refusal :=
  if commitDue h.core ∨ h.core.inbox ≠ [] then withCore (step h.core) fun c => { h with core := c }
  else match h.turns.headD .waits, localOp h with
    | .proceeds, some op => .next (hostEffect op 0 { h with turns := h.turns.tail })
    | turn, _ => hostCycle turn h

/-- `n` steps of host and core, up to the first refusal. -/
def hostRun (n : Nat) (h : HostState) : Host.Outcome HostState Fault Refusal :=
  match n with
  | 0 => .next h
  | m + 1 =>
    match hostStep h with
    | .next k => hostRun m k
    | .fault r => .fault r
    | .refused r => .refused r

/-- The host after its next `n` operations, as far as they are all host-side. -/
def localRun (n : Nat) (h : HostState) : HostState :=
  match n with
  | 0 => h
  | m + 1 =>
    match localOp h with
    | some op => localRun m (hostEffect op 0 h)
    | none => h

/-- The program's last access has been performed: however far its host-side operations go on, no access comes (R263). A
program whose operations are over is one case, one that loops without an access for ever another. -/
def accessesDone (h : HostState) : Prop := ∀ n, nextAccess (localRun n h) = none

/-- A host program has ended when its last access has been performed and BUSY = 0 (R263). -/
def hostEnded (h : HostState) : Prop := accessesDone h ∧ h.core.busy = false

/-- The readable registers (R61). -/
def readableRegs : List Reg :=
  [.status, .ctr, .xrem, .length, .seed 0, .seed 1, .seed 2, .seed 3, .iv0, .iv1, .ivl0, .ivl1, .win, .wout, .bin0,
    .bin1, .bout0, .bout1] ++ (List.finRange 24).map Reg.ksw

/-- The observable result of a host program (R263): the readable registers and the values its reads returned, those made
during reset included (log 7). Replies to others at the port are not the program's. STATUS is one of the registers, with
DROP in it, also where the program does not read it, of which R263 says two things: DESIGN CHOICE, log 18. -/
def observable (h : HostState) : List Word × List Word :=
  (readableRegs.map fun r => readReg r h.core, h.reads)

/-- `POLL` at position `pos`, through the name `s` (R87). -/
def asmPoll (pos s : Nat) : List HostOp := [.rd .status s, .bnz s 1 pos]

/-- `DO <mnemonic>` at position `pos` (R87). -/
def asmDo (pos s : Nat) (i : Instr) : List HostOp := .cmd i :: asmPoll (pos + 1) s

/-- `LDSEED a, b, c, d` (R87). -/
def asmLdSeed (a b c d : HostVal) : List HostOp :=
  [.wr (.seed 0) a, .wr (.seed 1) b, .wr (.seed 2) c, .wr (.seed 3) d]

/-- `LDIV a, b` (R87). -/
def asmLdIv (a b : HostVal) : List HostOp := [.wr .iv0 a, .wr .iv1 b]

/-- `LDBLK a, b` (R87). -/
def asmLdBlk (a b : HostVal) : List HostOp := [.wr .bin0 a, .wr .bin1 b]

/-- `RDBLK -> h, l` (R87). -/
def asmRdBlk (h l : Nat) : List HostOp := [.rd .bout0 h, .rd .bout1 l]

/-- `CHECK` (R87), through the name `s`. -/
def asmCheck (s : Nat) : List HostOp := [.rd .status s]

/-- The outcome code that `CHECK` leaves in `s` (R87): `(s >> 8) & 0xF`. -/
def outcomeCode (s : Word) : Word := (s >>> 8) &&& 0xF

/-- The first three steps of R253 at position `pos`: load the seed and the IV, EXPAND 16 and wait, then CHECK. -/
def asmKeySetup (pos s : Nat) (k0 k1 k2 k3 v0 v1 : Word) : List HostOp :=
  asmLdSeed (.imm k0) (.imm k1) (.imm k2) (.imm k3) ++ asmLdIv (.imm v0) (.imm v1) ++ asmDo (pos + 6) s (.expand 16)
    ++ asmCheck s

end Sys2Proof.Machine
end

