-- ==== Sys2Proof/Safety.lean ====
section
/-! DEFINITION. The terms in which claims about the core are stated: the states the spec calls reachable (R42), the two
ends of a command, the legal words and the error of a command as the rules give them, and a transform session (R176). -/

namespace Sys2Proof.Machine

/-- A command's normal end over its other writes: ERR = 0, BUSY = 0, PENDING none (R200). -/
def afterOk (s : State) : State := { s with err := 0, busy := false, pending := none }

/-- A command's end in an error: only ERR changes beside BUSY and PENDING (R200, R210). -/
def afterError (code : BitVec 4) (s : State) : State := { s with err := code, busy := false, pending := none }

/-- The command that the next step of `s` commits is `i` (R200). -/
def Commits (s : State) (i : Instr) : Prop := ∃ v, s.pending = some ⟨v, 0⟩ ∧ decode v = .ok i

/-- The next step of `s` passes a core cycle in which the reset input is asserted (R250). -/
def ResetNext (s : State) : Prop :=
  (∀ v, s.pending ≠ some ⟨v, 0⟩) ∧ ∃ a rest, s.inbox = .resetHeld a :: rest

/-- Round keys are held: STATE is not NOKEY. -/
def Keyed (s : State) : Prop := s.stream ≠ .noKey

/-- The stream can emit: STATE is INIT or STREAMING (R173). -/
def CanEmit (s : State) : Prop := s.stream = .init ∨ s.stream = .streaming

/-- The six invariants of R42, and two more: BUSY agrees with PENDING, and a keyed core's KSW is the key schedule of its
own first four words (R35, R109). -/
structure Inv (s : State) : Prop where
  /-- R42 item 1. -/
  noKeyClear : s.stream = .noKey →
    s.ctr = 0 ∧ s.xrem = 0 ∧ s.ivl0 = 0 ∧ s.ivl1H = 0 ∧ s.ksw = Vector.replicate 24 0
  /-- R42 item 2. -/
  initCounter : s.stream = .init → s.ctr = 0
  /-- R42 item 3. -/
  exhaustedCounter : s.stream = .exhausted → s.ctr = 0xFFFF
  /-- R42 item 4. -/
  sessionFits : s.xrem ≠ 0 → CanEmit s ∧ (s.xrem.toNat + 7) / 8 ≤ 65536 - s.ctr.toNat
  /-- R42 item 5. -/
  remainingBound : s.xrem.toNat ≤ 524288
  /-- R42 item 6. -/
  errCodes : s.err ∈ ([0, 1, 3, 4, 5, 6, 7] : List (BitVec 4))
  /-- R24, R41. -/
  busyPending : s.busy = s.pending.isSome
  /-- R35, R109. -/
  scheduled : Keyed s → s.ksw = keySchedule #v[s.ksw[0], s.ksw[1], s.ksw[2], s.ksw[3]]

/-- The 15 opcodes of R82. -/
def opcodes : List Nat :=
  [0x00, 0x01, 0x10, 0x11, 0x20, 0x21, 0x22, 0x30, 0x31, 0x32, 0x33, 0x34, 0x40, 0x41, 0x42]

/-- A legal command word, as R81 says it: its four items, over the numbers of the fields of R80. -/
def Legal (v : Word) : Prop :=
  v.toNat / 65536 = 0 ∧
  v.toNat % 256 ∈ opcodes ∧
  (v.toNat % 256 ∉ [0x10, 0x30, 0x34] → v.toNat / 256 % 256 = 0) ∧
  (v.toNat % 256 ∈ [0x30, 0x34] → v.toNat / 256 % 256 ≤ 11)

/-- The commands that need round keys (R216). -/
def needsKey (i : Instr) : Bool :=
  match i with
  | .ctrrst | .kmix _ | .round _ | .encrypt | .ksblk | .xstart | .xblock => true
  | .nop | .clear | .expand _ | .wtrans | .subw | .rotw | .perm | .subb => false

/-- The cause of a SequenceError (R218). -/
def outOfSequence (i : Instr) (s : State) : Bool :=
  match i with
  | .ksblk | .xstart => s.xrem != 0
  | .xblock => s.xrem == 0
  | .nop | .clear | .expand _ | .ctrrst | .wtrans | .subw | .rotw | .round _ | .encrypt | .perm | .subb | .kmix _ => false

/-- The cause of a StreamExhausted (R215). -/
def asksExhausted (i : Instr) (s : State) : Bool :=
  match i with
  | .ksblk | .xblock => s.stream == .exhausted
  | .nop | .clear | .expand _ | .ctrrst | .wtrans | .subw | .rotw | .round _ | .encrypt | .perm | .subb | .kmix _
  | .xstart => false

/-- The cause of a StreamTooLong (R214): `ceil_div(LENGTH, 8) > blocks_left()`, with blocks_left of R171. -/
def asksTooLong (i : Instr) (s : State) : Bool :=
  match i with
  | .xstart =>
    let left := if s.stream = .init ∨ s.stream = .streaming then 65536 - s.ctr.toNat else 0
    decide (left < (s.length.toNat + 7) / 8)
  | .nop | .clear | .expand _ | .ctrrst | .wtrans | .subw | .rotw | .round _ | .encrypt | .perm | .subb | .kmix _
  | .ksblk | .xblock => false

/-- The cause of an InvalidKeyLength (R212). -/
def badLength (i : Instr) : Bool :=
  match i with
  | .expand len => len.toNat != 16
  | .nop | .clear | .ctrrst | .wtrans | .subw | .rotw | .round _ | .encrypt | .perm | .subb | .kmix _ | .ksblk | .xstart
  | .xblock => false

/-- The outcome code of a command by the priority list of R219, with the codes of R211. -/
def outcomeOf (i : Instr) (s : State) : BitVec 4 :=
  if i.wf = false then 6
  else if badLength i then 1
  else if needsKey i && s.stream == .noKey then 5
  else if outOfSequence i s then 7
  else if asksExhausted i s then 4
  else if asksTooLong i s then 3
  else 0

/-- The XBLOCK commands of a session, one for each block of `data` written to BIN: the blocks read from BOUT and the
state after them; none if one of them does not end with ERR = 0 (R176). -/
def runBlocks (data : List Block) (s : State) : Option (List Block × State) :=
  match data with
  | [] => some ([], s)
  | d :: rest =>
    match exec .xblock { s with bin := d } with
    | .next t =>
      if t.err = 0 then
        match runBlocks rest t with
        | some (out, u) => some (t.bout :: out, u)
        | none => none
      else none
    | .fault _ | .refused _ => none

/-- The transform of `len` bytes from where the stream stands: XSTART with LENGTH = `len`, then `runBlocks`; none if a
command does not end with ERR = 0 (R176). -/
def runTransform (len : Word) (data : List Block) (s : State) : Option (List Block × State) :=
  match exec .xstart { s with length := len } with
  | .next t => if t.err = 0 then runBlocks data t else none
  | .fault _ | .refused _ => none

/-- The transform of `len` bytes on a stream that CTRRST has restarted at counter 0; none if a command does not end with
ERR = 0 (R179). -/
def runSession (len : Word) (data : List Block) (s : State) : Option (List Block × State) :=
  match exec .ctrrst s with
  | .next t => if t.err = 0 then runTransform len data t else none
  | .fault _ | .refused _ => none

/-- Block `i` of the data of a session of `len` bytes, with the bytes past the session's end zero: byte `j` of it is
byte `8i + j` of the session. -/
def clip (len : Nat) (i : Nat) (x : Block) : Block :=
  blockOf fun j => if 8 * i + j < len then blockByte x j else 0

/-- Twelve ROUND commands with k = `first`, `first + 1`, ..., BOUT copied to BIN between them (R153); none if one does
not end with ERR = 0. -/
def runRounds (first count : Nat) (s : State) : Option State :=
  match count with
  | 0 => some s
  | n + 1 =>
    match exec (.round (BitVec.ofNat 8 first)) s with
    | .next t => if t.err = 0 then runRounds (first + 1) n { t with bin := t.bout } else none
    | .fault _ | .refused _ => none

/-- Multiplication in GF(2^8) modulo x^8 + x^4 + x^3 + x + 1, by the bits of `b` from the lowest up (R102). -/
def gfMul (n : Nat) (a b : Byte) : Byte :=
  match n with
  | 0 => 0
  | m + 1 =>
    let rest := gfMul m ((a <<< 1) ^^^ (if a.getLsbD 7 then 0x1B else 0)) (b >>> 1)
    if b.getLsbD 0 then a ^^^ rest else rest

/-- `A(c)` of R102. -/
def affine (c : Byte) : Byte :=
  c ^^^ c.rotateLeft 1 ^^^ c.rotateLeft 2 ^^^ c.rotateLeft 3 ^^^ c.rotateLeft 4 ^^^ 0x63

end Sys2Proof.Machine
end

