-- ==== Sys2Proof/Certificates/Slice0/Obligations.lean ====
section
/-! DEFINITION. The statements about the core that the provers are asked to settle. OBLIGATIONS.json says of each which
rule of the spec it formalises. -/

open Sys2Proof Sys2Proof.Machine Host

/-! ### Encoding -/

/-- R80 to R84: the decoder gives back every well-formed command from its word, with every ARG it admits. -/
def Obligations.DecodeOfEncodeIsTheCommand : Prop :=
  ∀ i : Instr, i.wf = true → decode (encode i) = .ok i

/-- R84, R85: a word that decodes is the word of the command it decodes to, and that command is well formed. -/
def Obligations.EncodeOfDecodeIsTheWord : Prop :=
  ∀ (v : Word) (i : Instr), decode v = .ok i → i.wf = true ∧ encode i = v

/-- R81: the decoder accepts exactly the legal words; an illegal word, when it commits, raises IllegalCommand and
changes nothing else; EXPAND decodes with every ARG, and an ARG other than 16 raises InvalidKeyLength when it runs. -/
def Obligations.LegalWordsAreExactlyTheDecodedOnes : Prop :=
  (∀ v : Word, (∃ i, decode v = .ok i) ↔ Legal v) ∧
  (∀ (v : Word) (s : State), ¬ Legal v → commitWord v s = .next (afterError 6 s)) ∧
  (∀ arg : Byte, decode ((0 : Half) ++ arg ++ (0x10 : Byte)) = .ok (.expand arg)) ∧
  (∀ (arg : Byte) (s : State), arg ≠ 16 →
    commitWord ((0 : Half) ++ arg ++ (0x10 : Byte)) s = .next (afterError 1 s))

/-- R84, a sanity statement: words written out from the table. -/
def Obligations.SampleWordsDecode : Prop :=
  decode 0x00000000 = .ok .nop ∧ decode 0x00001010 = .ok (.expand 16) ∧ decode 0x00000022 = .ok .rotw ∧
  decode 0x00000B30 = .ok (.round 11) ∧ decode 0x00000534 = .ok (.kmix 5) ∧ decode 0x00000042 = .ok .xblock ∧
  decode 0x00000C30 = .error .argumentOutOfRange ∧ decode 0x00010000 = .error .reservedBits

/-! ### The sequencer -/

/-- R200: when a pending word's latency has run out and it decodes, the step is the commit of that command, with nothing
around it. That a commit is a step of its own is the model's choice (log 4). -/
def Obligations.StepRunsTheDecodedCommand : Prop :=
  ∀ (s : State) (v : Word) (i : Instr), s.pending = some ⟨v, 0⟩ → decode v = .ok i → step s = exec i s

/-- R217: a word with a reserved opcode, a nonzero RSV, a nonzero ARG on an opcode that takes none, or ROUND or KMIX with
ARG of 12 or more, raises IllegalCommand at its commit, and nothing but ERR changes. That a due commit is a step of its own,
before a reset in the next slot, is the model's choice (log 4). -/
def Obligations.IllegalWordChangesErrOnly : Prop :=
  ∀ (s : State) (v : Word), s.pending = some ⟨v, 0⟩ →
    (v.toNat % 256 ∉ opcodes ∨ v.toNat / 65536 ≠ 0 ∨
      (v.toNat % 256 ∈ opcodes ∧ v.toNat % 256 ∉ [0x10, 0x30, 0x34] ∧ v.toNat / 256 % 256 ≠ 0) ∨
      (v.toNat % 256 ∈ [0x30, 0x34] ∧ 12 ≤ v.toNat / 256 % 256)) →
    step s = .next (afterError 6 s)

/-- R65, R66, R200, R254: an idle core serves its port, at every offset. With no slot or an idle one nothing happens; a read
is answered with the register; a write does what R66 says; and a write to CMD is accepted: BUSY rises, PENDING holds the
word for at least one cycle, and no other register changes. That a cycle is a step with one slot, the list of replies and
the draw counter are the model's own (log 1, log 2, log 3, log 4). -/
def Obligations.AcceptedCommandBecomesPending : Prop :=
  ∀ s : State, s.busy = false → s.pending = none →
    (s.inbox = [] → step s = .next s) ∧
    (∀ rest, s.inbox = .idle :: rest → step s = .next { s with inbox := rest }) ∧
    (∀ off rest, s.inbox = .access (.read .word off) :: rest →
      step s = .next { s with inbox := rest, replies := s.replies ++ [memRead off s] }) ∧
    (∀ off x rest, s.inbox = .access (.write .word off x) :: rest →
      step s = .next (memWrite off x { s with inbox := rest })) ∧
    (∀ off v rest, off.toNat / 4 = 0 → s.inbox = .access (.write .word off v) :: rest →
      ∃ n, 1 ≤ n ∧
        step s = .next { s with busy := true, pending := some ⟨v, n⟩, inbox := rest, draws := s.draws + 1 })

/-- R24, R255, R256: in a cycle of the BUSY window, unless reset is asserted or the access is narrow, the step goes on,
the pending command has one cycle less to go, and no register but DROP changes: a write, whatever its offset, sets DROP
and nothing else, and a read returns the value from before the command. That a cycle is a step with one slot, and that
reads are recorded, is the model's choice (log 2, log 4). -/
def Obligations.BusyWindowKeepsEveryRegister : Prop :=
  ∀ (s : State) (v : Word) (n : Nat), s.busy = true → s.pending = some ⟨v, n + 1⟩ →
    (s.inbox = [] → step s = .next { s with pending := some ⟨v, n⟩ }) ∧
    (∀ rest, s.inbox = .idle :: rest → step s = .next { s with pending := some ⟨v, n⟩, inbox := rest }) ∧
    (∀ off x rest, s.inbox = .access (.write .word off x) :: rest →
      step s = .next { s with pending := some ⟨v, n⟩, inbox := rest, drop := true }) ∧
    (∀ off rest, s.inbox = .access (.read .word off) :: rest →
      step s = .next { s with pending := some ⟨v, n⟩, inbox := rest, replies := s.replies ++ [memRead off s] })

/-- R254: a pending command with `n` cycles left is due after exactly `n` steps, if in those cycles reset is not asserted
and no access is narrow; the registers are then as they were, but for DROP, and the next step is the commit. The count of
steps is the model's choice (log 4). -/
def Obligations.EveryPendingCommandComesToItsCommit : Prop :=
  ∀ (n : Nat) (s : State) (v : Word), s.busy = true → s.pending = some ⟨v, n⟩ →
    (∀ slot ∈ s.inbox.take n, slot = .idle ∨ (∃ off, slot = .access (.read .word off)) ∨
      (∃ off x, slot = .access (.write .word off x))) →
    ∃ t : State, Host.Core.run Sys2Proof.core n s = .next t ∧
      t = { s with pending := some ⟨v, 0⟩, inbox := s.inbox.drop n, drop := t.drop, replies := t.replies } ∧
      step t = commitWord v t

/-- R222, R62: a step never faults, and the only refusal is of an access narrower than 32 bits, made while reset is
asserted or not. -/
def Obligations.StepStopsOnlyOnNarrowAccess : Prop :=
  ∀ s : State, (∃ t, step s = .next t) ∨
    (step s = .refused .narrowAccess ∧ ∃ a off x rest,
      (s.inbox = .access a :: rest ∨ s.inbox = .resetHeld (some a) :: rest) ∧
      (a = .read .byte off ∨ a = .read .half off ∨ a = .write .byte off x ∨ a = .write .half off x))

/-- R62: an 8-bit or 16-bit access is refused by name, in every state in which the port serves it, made while reset is
asserted (log 6) or not. -/
def Obligations.NarrowAccessIsRefused : Prop :=
  ∀ (s : State) (a : Access) (rest : List Slot) (off : Offset) (x : Word), (∀ v, s.pending ≠ some ⟨v, 0⟩) →
    s.inbox = .access a :: rest ∨ s.inbox = .resetHeld (some a) :: rest →
    (a = .read .byte off ∨ a = .read .half off ∨ a = .write .byte off x ∨ a = .write .half off x) →
    step s = .refused .narrowAccess

/-! ### The register window -/

/-- R65: the value a read returns, offset by offset (bits [1:0] not decoded), and that a read hands that value to the host
and changes no register. The list of replies is the model's own (log 2). -/
def Obligations.ReadReturnsTheAddressedRegister : Prop :=
  ∀ (s : State) (off : Offset),
    (off.toNat / 4 = 0x00 → memRead off s = 0) ∧
    (off.toNat / 4 = 0x01 → memRead off s =
      (0 : BitVec 20) ++ s.err ++ (0 : BitVec 3) ++ BitVec.ofBool s.drop ++ BitVec.ofBool (decide (s.xrem ≠ 0))
        ++ (match s.stream with | .noKey => (0 : BitVec 2) | .init => 1 | .streaming => 2 | .exhausted => 3)
        ++ BitVec.ofBool s.busy) ∧
    (off.toNat / 4 = 0x02 → (memRead off s).toNat = s.ctr.toNat) ∧
    (off.toNat / 4 = 0x03 → memRead off s = s.xrem) ∧
    (off.toNat / 4 = 0x04 → memRead off s = s.length) ∧
    (∀ i : Fin 4, off.toNat / 4 = 0x08 + i.val → memRead off s = s.seed[i]) ∧
    (off.toNat / 4 = 0x0C → memRead off s = s.iv0) ∧
    (off.toNat / 4 = 0x0D → memRead off s = s.iv1H ++ (0 : Half)) ∧
    (off.toNat / 4 = 0x0E → memRead off s = s.ivl0) ∧
    (off.toNat / 4 = 0x0F → memRead off s = s.ivl1H ++ (0 : Half)) ∧
    (off.toNat / 4 = 0x10 → memRead off s = s.win) ∧
    (off.toNat / 4 = 0x11 → memRead off s = s.wout) ∧
    (off.toNat / 4 = 0x14 → (memRead off s).toNat = s.bin.toNat / 2 ^ 32) ∧
    (off.toNat / 4 = 0x15 → (memRead off s).toNat = s.bin.toNat % 2 ^ 32) ∧
    (off.toNat / 4 = 0x16 → (memRead off s).toNat = s.bout.toNat / 2 ^ 32) ∧
    (off.toNat / 4 = 0x17 → (memRead off s).toNat = s.bout.toNat % 2 ^ 32) ∧
    (∀ i : Fin 24, off.toNat / 4 = 0x40 + i.val → memRead off s = s.ksw[i]) ∧
    (off.toNat / 4 ∈ [0x05, 0x06, 0x07, 0x12, 0x13] ∨ (0x18 ≤ off.toNat / 4 ∧ off.toNat / 4 < 0x40) ∨
      0x58 ≤ off.toNat / 4 → memRead off s = 0) ∧
    serveAccess (.read .word off) s = .next { s with replies := s.replies ++ [memRead off s] }

/-- R66: what a write does, offset by offset (bits [1:0] not decoded): dropped while BUSY = 1; otherwise the addressed
register alone changes, a write to CMD starts the command, with at least one cycle to go (R254), and a write to a
read-only or unmapped offset does nothing. The draw counter is the model's own (log 3). -/
def Obligations.WriteChangesTheAddressedRegisterOnly : Prop :=
  ∀ (s : State) (off : Offset) (v : Word),
    (s.busy = true → memWrite off v s = { s with drop := true }) ∧
    (s.busy = false →
      (off.toNat / 4 = 0x00 → ∃ n, 1 ≤ n ∧
        memWrite off v s = { s with busy := true, pending := some ⟨v, n⟩, draws := s.draws + 1 }) ∧
      (off.toNat / 4 = 0x04 → memWrite off v s = { s with length := v }) ∧
      (∀ i : Fin 4, off.toNat / 4 = 0x08 + i.val → memWrite off v s = { s with seed := s.seed.set i v }) ∧
      (off.toNat / 4 = 0x0C → memWrite off v s = { s with iv0 := v }) ∧
      (off.toNat / 4 = 0x0D → memWrite off v s = { s with iv1H := v.extractLsb' 16 16 }) ∧
      (off.toNat / 4 = 0x10 → memWrite off v s = { s with win := v }) ∧
      (off.toNat / 4 = 0x14 → memWrite off v s = { s with bin := v ++ s.bin.extractLsb' 0 32 }) ∧
      (off.toNat / 4 = 0x15 → memWrite off v s = { s with bin := s.bin.extractLsb' 32 32 ++ v }) ∧
      (off.toNat / 4 ∉ [0x00, 0x04, 0x08, 0x09, 0x0A, 0x0B, 0x0C, 0x0D, 0x10, 0x14, 0x15] → memWrite off v s = s))

/-- R23, R25, R26: the fields of STATUS, with the four codes of STATE, its reserved bits, its value at reset, and that a write
to it while BUSY = 0 is ignored. -/
def Obligations.StatusShowsItsFields : Prop :=
  (∀ s : State,
    (memRead 0x004 s).getLsbD 0 = s.busy ∧
    (s.stream = .noKey → (memRead 0x004 s).extractLsb' 1 2 = 0) ∧
    (s.stream = .init → (memRead 0x004 s).extractLsb' 1 2 = 1) ∧
    (s.stream = .streaming → (memRead 0x004 s).extractLsb' 1 2 = 2) ∧
    (s.stream = .exhausted → (memRead 0x004 s).extractLsb' 1 2 = 3) ∧
    (memRead 0x004 s).getLsbD 3 = decide (s.xrem ≠ 0) ∧
    (memRead 0x004 s).getLsbD 4 = s.drop ∧
    (memRead 0x004 s).extractLsb' 5 3 = 0 ∧
    (memRead 0x004 s).extractLsb' 8 4 = s.err ∧
    (memRead 0x004 s).extractLsb' 12 20 = 0) ∧
  memRead 0x004 State.reset = 0 ∧
  (∀ (s : State) (v : Word), s.busy = false → memWrite 0x004 v s = s)

/-- R68 (a), R33: an accepted write of a read/write register is seen by a later read of its offset (IV1[15:0] as zero), and
by no read of any other register. -/
def Obligations.WriteIsSeenByLaterReads : Prop :=
  ∀ (s : State) (r q : Reg) (v : Word), s.busy = false →
    (r ∈ [Reg.length, .seed 0, .seed 1, .seed 2, .seed 3, .iv0, .win, .bin0, .bin1] →
      memRead (offsetOf r) (memWrite (offsetOf r) v s) = v) ∧
    (memRead (offsetOf .iv1) (memWrite (offsetOf .iv1) v s) = v &&& 0xFFFF0000) ∧
    (r ≠ .cmd → q ≠ r → memRead (offsetOf q) (memWrite (offsetOf r) v s) = memRead (offsetOf q) s)

/-- R9, R60: BASE is a multiple of 4096, and wherever the window lies, an access at BASE plus an offset reaches that
offset, and an access outside the window does not reach the core (log 5). -/
def Obligations.WindowIsReachedWhereverBaseIs : Prop :=
  windowBase % 4096 = 0 ∧
  (∀ (off : Offset) (access : Offset → Access), slotAtAddress (windowBase + off.toNat) access = .access (access off)) ∧
  (∀ (addr : Nat) (access : Offset → Access), addr < windowBase ∨ windowBase + 4096 ≤ addr →
    slotAtAddress addr access = .idle)

/-! ### Reset -/

/-- R43: the values at reset, and at an accepted CLEAR, of every field of R20. -/
def Obligations.ResetAndClearGiveTheListedValues : Prop :=
  ∀ s t : State, t = State.reset ∨ (∃ a, serveSlot (.resetHeld a) s = .next t) ∨ exec .clear s = .next t →
    (∀ i : Fin 4, t.seed[i] = 0) ∧ t.iv0 = 0 ∧ t.iv1H = 0 ∧ t.ivl0 = 0 ∧ t.ivl1H = 0 ∧ t.length = 0 ∧ t.win = 0 ∧
    t.wout = 0 ∧ t.bin = 0 ∧ t.bout = 0 ∧ (∀ i : Fin 24, t.ksw[i] = 0) ∧ t.ctr = 0 ∧ t.stream = .noKey ∧ t.xrem = 0 ∧
    t.err = 0 ∧ t.drop = false ∧ t.busy = false ∧ t.pending = none

/-- R250: while reset is asserted every field takes its reset value, a command in progress is abandoned with none of its
writes, and a 32-bit access made meanwhile has no effect; a command whose commit is due first commits, and the reset that
follows leaves the same. That a due commit comes before the reset, and that reset keeps the port's own lists and the
draw counter, is the model's choice (log 4, log 8). -/
def Obligations.HeldResetAbandonsTheCommand : Prop :=
  ∀ (s : State) (a : Option Access) (rest : List Slot), s.inbox = .resetHeld a :: rest →
    a = none ∨ (∃ off, a = some (.read .word off)) ∨ (∃ off x, a = some (.write .word off x)) →
    ((∀ v, s.pending ≠ some ⟨v, 0⟩) →
      step s = .next { State.reset with inbox := rest, replies := s.replies, draws := s.draws }) ∧
    (∀ v, s.pending = some ⟨v, 0⟩ →
      Host.Core.run Sys2Proof.core 2 s =
        .next { State.reset with inbox := rest, replies := s.replies, draws := s.draws })

/-- R251: after reset and after CLEAR every offset of the window reads as zero. -/
def Obligations.EveryRegisterReadsZeroAfterClear : Prop :=
  ∀ off : Offset, memRead off State.reset = 0 ∧
    ∀ s : State, ∃ t, exec .clear s = .next t ∧ memRead off t = 0

/-! ### Errors -/

/-- R210: a command that ends in an error changes ERR and nothing else (BUSY and PENDING end with the command). -/
def Obligations.ErrorChangesNothingButErr : Prop :=
  ∀ (i : Instr) (s t : State), exec i s = .next t → t.err ≠ 0 → t = afterError t.err s

/-- R219: every command ends in a next state, whose ERR is 0 or the code of the first cause in the order of R219. That `exec`
answers IllegalCommand for ill-formed ROUND and KMIX, which no word decodes to, is the model's arm (log 11). -/
def Obligations.FirstErrorInPriorityOrderIsReported : Prop :=
  ∀ (i : Instr) (s : State), ∃ t, exec i s = .next t ∧ t.err = outcomeOf i s ∧ t.busy = false ∧ t.pending = none

/-- R213: code 2, ShapeMismatch, is never raised, and no code above 7. -/
def Obligations.ShapeMismatchIsNeverRaised : Prop :=
  ∀ s t : State, s.err ∈ ([0, 1, 3, 4, 5, 6, 7] : List (BitVec 4)) → step s = .next t →
    t.err ∈ ([0, 1, 3, 4, 5, 6, 7] : List (BitVec 4))

/-- R216: in NOKEY, each of the seven commands that need round keys raises NoKey and changes nothing else. -/
def Obligations.KeyedCommandsRaiseNoKeyBeforeExpand : Prop :=
  ∀ (i : Instr) (s : State), i.wf = true → s.stream = .noKey →
    i ∈ [Instr.ctrrst, .encrypt, .ksblk, .xstart, .xblock] ∨ (∃ k, i = .kmix k) ∨ (∃ k, i = .round k) →
    exec i s = .next (afterError 5 s)

/-- R218: KSBLK and XSTART in an open session, and XBLOCK with no session, raise SequenceError and change nothing else. -/
def Obligations.OutOfSequenceRequestsChangeErrOnly : Prop :=
  ∀ s : State, Keyed s →
    (s.xrem ≠ 0 → exec .ksblk s = .next (afterError 7 s)) ∧
    (s.xrem ≠ 0 → exec .xstart s = .next (afterError 7 s)) ∧
    (s.xrem = 0 → exec .xblock s = .next (afterError 7 s))

/-! ### Invariants -/

/-- R42, with BUSY and PENDING in agreement and KSW a key schedule: every step keeps the invariants. -/
def Obligations.EveryStepKeepsTheInvariants : Prop :=
  ∀ s t : State, Inv s → step s = .next t → Inv t

/-- R42, R43: the invariants hold right after reset. -/
def Obligations.InvariantsHoldAtReset : Prop :=
  Inv State.reset

/-- R177, R215: where the invariants hold, no XBLOCK finds the stream exhausted. -/
def Obligations.SessionNeverMeetsAnExhaustedStream : Prop :=
  ∀ s t : State, Inv s → exec .xblock s = .next t → t.err ≠ 4

/-- R170: STATE changes exactly by the five kinds of event listed, and each of them changes it as listed. That a commit that is
due comes before a reset in the next slot is the model's choice (log 4). -/
def Obligations.StreamStateChangesOnlyAsListed : Prop :=
  ∀ s t : State, step s = .next t →
    (t.stream ≠ s.stream →
      (t.stream = .noKey ∧ (ResetNext s ∨ Commits s .clear)) ∨
      (t.stream = .init ∧ (Commits s (.expand 16) ∨ (Commits s .ctrrst ∧ Keyed s))) ∨
      (t.stream = .streaming ∧ CanEmit s ∧ s.ctr.toNat < 0xFFFF ∧ (Commits s .ksblk ∨ Commits s .xblock)) ∨
      (t.stream = .exhausted ∧ CanEmit s ∧ s.ctr = 0xFFFF ∧ (Commits s .ksblk ∨ Commits s .xblock))) ∧
    (ResetNext s ∨ Commits s .clear → t.stream = .noKey) ∧
    (Commits s (.expand 16) → t.stream = .init) ∧
    (Commits s .ctrrst → Keyed s → t.stream = .init) ∧
    ((Commits s .ksblk ∧ s.xrem = 0) ∨ (Commits s .xblock ∧ s.xrem ≠ 0) → CanEmit s →
      t.stream = if s.ctr = 0xFFFF then .exhausted else .streaming)

/-- R29, R174: CTR changes only by one up, at an emission that does not start from 0xFFFF, or to zero, by EXPAND, CTRRST,
CLEAR or reset; it never wraps. -/
def Obligations.CounterNeverWraps : Prop :=
  ∀ s t : State, step s = .next t → t.ctr ≠ s.ctr →
    (t.ctr.toNat = s.ctr.toNat + 1 ∧ CanEmit s ∧ (Commits s .ksblk ∨ Commits s .xblock)) ∨
    (t.ctr = 0 ∧ (ResetNext s ∨ Commits s .clear ∨ Commits s .ctrrst ∨ Commits s (.expand 16)))

/-- R35: only EXPAND, CLEAR and reset change the key schedule file. -/
def Obligations.OnlyExpandAndClearWriteTheKeyFile : Prop :=
  ∀ s t : State, step s = .next t → t.ksw ≠ s.ksw → Commits s (.expand 16) ∨ Commits s .clear ∨ ResetNext s

/-- R34: the latched IV changes only by EXPAND and CTRRST, which copy the staging IV, and by CLEAR and reset. -/
def Obligations.LatchedIvIsFixedDuringAStream : Prop :=
  ∀ s t : State, step s = .next t → t.ivl0 ≠ s.ivl0 ∨ t.ivl1H ≠ s.ivl1H →
    ((Commits s (.expand 16) ∨ Commits s .ctrrst) ∧ t.ivl0 = s.iv0 ∧ t.ivl1H = s.iv1H) ∨
    ((Commits s .clear ∨ ResetNext s) ∧ t.ivl0 = 0 ∧ t.ivl1H = 0)

/-! ### The commands -/

/-- R201: NOP writes ERR = 0 and changes nothing else. -/
def Obligations.NopWritesErrOnly : Prop :=
  decode 0x00000000 = .ok .nop ∧
  ∀ s : State, exec .nop s = .next (afterOk s)

/-- R202: CLEAR gives every field of R20 its reset value. That it keeps the last three fields, the model's own, is the
model's choice (log 8). -/
def Obligations.ClearResetsEveryField : Prop :=
  decode 0x00000001 = .ok .clear ∧
  ∀ s : State, exec .clear s =
    .next { State.reset with inbox := s.inbox, replies := s.replies, draws := s.draws }

/-- R113, R107, R212: EXPAND 16 fills KSW by the recurrence of R107 from SEED, latches the IV, restarts the stream and closes
any session; with another ARG it raises InvalidKeyLength and changes nothing else. -/
def Obligations.ExpandRunsTheKeySchedule : Prop :=
  decode 0x00001010 = .ok (.expand 16) ∧
  (∀ len : Byte, decode ((0 : Half) ++ len ++ (0x10 : Byte)) = .ok (.expand len)) ∧
  ∀ s : State,
    (∃ k : Vector Word 24,
      exec (.expand 16) s = .next (afterOk
        { s with ksw := k, ivl0 := s.iv0, ivl1H := s.iv1H, ctr := 0, stream := .init, xrem := 0 }) ∧
      (∀ i : Fin 4, kswAt k i = s.seed[i]) ∧
      (∀ i, 4 ≤ i → i < 24 → kswAt k i =
        if i % 4 = 0 then wordTransform (kswAt k (i - 1)) ^^^ kswAt k (i - 4)
        else kswAt k (i - 1) ^^^ kswAt k (i - 4))) ∧
    (∀ len : Byte, len ≠ 16 → exec (.expand len) s = .next (afterError 1 s))

/-- R110, R103: ROTW gives WOUT the word `w[23:0] || w[31:24]` of WIN, in every STATE. -/
def Obligations.RotwRotatesTheWordByOneByte : Prop :=
  decode 0x00000022 = .ok .rotw ∧
  ∀ s : State, exec .rotw s =
    .next (afterOk { s with wout := s.win.extractLsb' 0 24 ++ s.win.extractLsb' 24 8 })

/-- R111, R104: SUBW gives WOUT the SBOX value of each byte of WIN, in every STATE. -/
def Obligations.SubwSubstitutesEachByte : Prop :=
  decode 0x00000021 = .ok .subw ∧
  ∀ s : State, ∃ w : Word, exec .subw s = .next (afterOk { s with wout := w }) ∧
    ∀ j < 4, wordByte w j = sbox (wordByte s.win j)

/-- R112, R105: WTRANS in byte form, in every STATE. -/
def Obligations.WtransIsTheWordTransform : Prop :=
  decode 0x00000020 = .ok .wtrans ∧
  ∀ s : State,
    let w : Word := (sbox (wordByte s.win 1) ^^^ 0xFF) ++ sbox (wordByte s.win 2) ++ sbox (wordByte s.win 3)
      ++ sbox (wordByte s.win 0)
    exec .wtrans s = .next (afterOk { s with wout := w })

/-- R150, R141: PERM gives BOUT, at byte `i`, byte `σ(i)` of BIN, with σ = [5,0,2,7,1,6,4,3], in every STATE. -/
def Obligations.PermMovesEachByteBySigma : Prop :=
  decode 0x00000032 = .ok .perm ∧
  ∀ s : State, ∃ b : Block, exec .perm s = .next (afterOk { s with bout := b }) ∧
    ∀ i < 8, blockByte b i = blockByte s.bin (([5, 0, 2, 7, 1, 6, 4, 3] : List Nat).getD i 0)

/-- R151, R143: SUBB gives BOUT the SBOX value of each byte of BIN, in every STATE. -/
def Obligations.SubbSubstitutesEachByte : Prop :=
  decode 0x00000033 = .ok .subb ∧
  ∀ s : State, ∃ b : Block, exec .subb s = .next (afterOk { s with bout := b }) ∧
    ∀ i < 8, blockByte b i = sbox (blockByte s.bin i)

/-- R152, R144, R36: KMIX k XORs BIN with RK(k) where round keys are held; its errors. That `exec` answers IllegalCommand for
k of 12 or more, where R152 refuses the word at decode, is the model's arm (log 11). -/
def Obligations.KmixXorsTheRoundKey : Prop :=
  (∀ k : Byte, k.toNat ≤ 11 → decode ((0 : Half) ++ k ++ (0x34 : Byte)) = .ok (.kmix k)) ∧
  ∀ (k : Byte) (s : State),
    (k.toNat ≤ 11 → Keyed s → exec (.kmix k) s =
      .next (afterOk { s with bout := s.bin ^^^ (kswAt s.ksw (2 * k.toNat) ++ kswAt s.ksw (2 * k.toNat + 1)) })) ∧
    (k.toNat ≤ 11 → s.stream = .noKey → exec (.kmix k) s = .next (afterError 5 s)) ∧
    (12 ≤ k.toNat → exec (.kmix k) s = .next (afterError 6 s))

/-- R153, R145: ROUND k byte by byte, where round keys are held; its errors. That `exec` answers IllegalCommand for k of 12
or more, where R153 refuses the word at decode, is the model's arm (log 11). -/
def Obligations.RoundMapsEachByte : Prop :=
  (∀ k : Byte, k.toNat ≤ 11 → decode ((0 : Half) ++ k ++ (0x30 : Byte)) = .ok (.round k)) ∧
  ∀ (k : Byte) (s : State),
    (k.toNat ≤ 11 → Keyed s → ∃ b : Block, exec (.round k) s = .next (afterOk { s with bout := b }) ∧
      ∀ i < 8, blockByte b i = sbox (blockByte s.bin (([5, 0, 2, 7, 1, 6, 4, 3] : List Nat).getD i 0)) ^^^
        blockByte (kswAt s.ksw (2 * k.toNat) ++ kswAt s.ksw (2 * k.toNat + 1)) i) ∧
    (k.toNat ≤ 11 → s.stream = .noKey → exec (.round k) s = .next (afterError 5 s)) ∧
    (12 ≤ k.toNat → exec (.round k) s = .next (afterError 6 s))

/-- R154, R146: ENCRYPT gives BOUT the block after rounds 0 to 11 from BIN, round `r` with RK(r), where round keys are
held; its error. -/
def Obligations.EncryptIsTwelveRounds : Prop :=
  decode 0x00000031 = .ok .encrypt ∧
  ∀ s : State,
    (Keyed s → ∃ y : Nat → Block, y 0 = s.bin ∧
      (∀ r < 12, y (r + 1) = blockRound (y r) (kswAt s.ksw (2 * r) ++ kswAt s.ksw (2 * r + 1))) ∧
      exec .encrypt s = .next (afterOk { s with bout := y 12 })) ∧
    (s.stream = .noKey → exec .encrypt s = .next (afterError 5 s))

/-- R185: CTRRST latches the IV, restarts the stream at counter 0 and closes any session, where round keys are held; its
error. -/
def Obligations.CtrrstRestartsTheStream : Prop :=
  decode 0x00000011 = .ok .ctrrst ∧
  ∀ s : State,
    (Keyed s → exec .ctrrst s = .next (afterOk
      { s with ivl0 := s.iv0, ivl1H := s.iv1H, ctr := 0, stream := .init, xrem := 0 })) ∧
    (s.stream = .noKey → exec .ctrrst s = .next (afterError 5 s))

/-- R186, R173, R172: KSBLK emits `BlockCipher(IVL0 || IVL1H || CTR)` and advances the counter, the block at 0xFFFF included;
its errors in their order. -/
def Obligations.KsblkEmitsOneKeystreamBlock : Prop :=
  decode 0x00000040 = .ok .ksblk ∧
  ∀ s : State,
    (CanEmit s → s.xrem = 0 → s.ctr.toNat < 0xFFFF → exec .ksblk s = .next (afterOk
      { s with bout := blockCipher s.ksw (s.ivl0 ++ s.ivl1H ++ s.ctr), ctr := s.ctr + 1, stream := .streaming })) ∧
    (CanEmit s → s.xrem = 0 → s.ctr = 0xFFFF → exec .ksblk s = .next (afterOk
      { s with bout := blockCipher s.ksw (s.ivl0 ++ s.ivl1H ++ s.ctr), stream := .exhausted })) ∧
    (s.stream = .noKey → exec .ksblk s = .next (afterError 5 s)) ∧
    (Keyed s → s.xrem ≠ 0 → exec .ksblk s = .next (afterError 7 s)) ∧
    (s.stream = .exhausted → s.xrem = 0 → exec .ksblk s = .next (afterError 4 s))

/-- R187, R171: XSTART opens a session of LENGTH bytes where the stream has blocks enough left; its errors in their
order. -/
def Obligations.XstartOpensASession : Prop :=
  decode 0x00000041 = .ok .xstart ∧
  ∀ s : State,
    (CanEmit s → s.xrem = 0 → (s.length.toNat + 7) / 8 ≤ 65536 - s.ctr.toNat →
      exec .xstart s = .next (afterOk { s with xrem := s.length })) ∧
    (s.stream = .exhausted → s.xrem = 0 → s.length = 0 → exec .xstart s = .next (afterOk s)) ∧
    (s.stream = .noKey → exec .xstart s = .next (afterError 5 s)) ∧
    (Keyed s → s.xrem ≠ 0 → exec .xstart s = .next (afterError 7 s)) ∧
    (CanEmit s → s.xrem = 0 → 65536 - s.ctr.toNat < (s.length.toNat + 7) / 8 →
      exec .xstart s = .next (afterError 3 s)) ∧
    (s.stream = .exhausted → s.xrem = 0 → s.length ≠ 0 → exec .xstart s = .next (afterError 3 s))

/-- R188: XBLOCK XORs the first `min(8, XREM)` bytes of BIN with the keystream block, zeroes the rest of BOUT, advances the
counter by one and XREM by the bytes produced; its errors in their order. -/
def Obligations.XblockTransformsTheNextBytes : Prop :=
  decode 0x00000042 = .ok .xblock ∧
  ∀ s : State,
    (CanEmit s → s.xrem ≠ 0 → ∃ b x, exec .xblock s = .next (afterOk { s with
        bout := b, xrem := x, ctr := if s.ctr = 0xFFFF then 0xFFFF else s.ctr + 1,
        stream := if s.ctr = 0xFFFF then .exhausted else .streaming }) ∧
      x.toNat = s.xrem.toNat - 8 ∧
      ∀ j < 8, blockByte b j = if j < s.xrem.toNat then
        blockByte s.bin j ^^^ blockByte (blockCipher s.ksw (s.ivl0 ++ s.ivl1H ++ s.ctr)) j else 0) ∧
    (s.stream = .noKey → exec .xblock s = .next (afterError 5 s)) ∧
    (Keyed s → s.xrem = 0 → exec .xblock s = .next (afterError 7 s)) ∧
    (s.stream = .exhausted → s.xrem ≠ 0 → exec .xblock s = .next (afterError 4 s))

/-- R177: on a fresh stream XSTART admits 524288 bytes and no more; beyond, it raises StreamTooLong and changes nothing
else. -/
def Obligations.FreshStreamAdmits524288Bytes : Prop :=
  ∀ s : State, s.stream = .init → s.ctr = 0 → s.xrem = 0 →
    (s.length.toNat ≤ 524288 → exec .xstart s = .next (afterOk { s with xrem := s.length })) ∧
    (524288 < s.length.toNat → exec .xstart s = .next (afterError 3 s))

/-- R20, R37, R39: after a word command or a keyless block command only STATUS and the result register read otherwise in the
window. -/
def Obligations.ResultRegistersAloneChangeInTheWindow : Prop :=
  ∀ (i : Instr) (s t : State) (r : Reg), exec i s = .next t → r ≠ .status →
    (i ∈ [Instr.rotw, .subw, .wtrans] → r ≠ .wout → readReg r t = readReg r s) ∧
    (i ∈ [Instr.perm, .subb, .encrypt] ∨ (∃ k, i = .round k) ∨ (∃ k, i = .kmix k) → r ≠ .bout0 → r ≠ .bout1 →
      readReg r t = readReg r s)

/-! ### The cipher -/

/-- R101: SBOX is a bijection on bytes without a fixed point. -/
def Obligations.SboxIsABijectionWithoutFixedPoint : Prop :=
  (∀ a b : Byte, sbox a = sbox b → a = b) ∧ (∀ b : Byte, ∃ a, sbox a = b) ∧ ∀ b : Byte, sbox b ≠ b

/-- R102: each entry of SBOX is the affine image of the inverse in GF(2^8) (of 0, for 0). -/
def Obligations.SboxIsTheAffineImageOfTheInverse : Prop :=
  ∀ b : Byte, ∃ c : Byte, (b = 0 ∧ c = 0 ∨ gfMul 8 b c = 1) ∧ sbox b = affine c

/-- R142, C1: the permutation has order exactly 10. -/
def Obligations.PermutationHasOrderTen : Prop :=
  (∀ x : Block, permute^[10] x = x) ∧ ∀ n, 0 < n → n < 10 → permute^[n] 0x0001020304050607 ≠ 0x0001020304050607

/-- R148: for fixed round keys the cipher is a bijection on blocks. -/
def Obligations.CipherIsABijection : Prop :=
  ∀ ksw : Vector Word 24, Function.Bijective (blockCipher ksw)

/-- R149: changing input byte `j` changes only output byte `τ⁻¹(j)`, with τ⁻¹ = [4,6,2,3,5,1,0,7]. -/
def Obligations.CipherMovesEachByteAlone : Prop :=
  ∀ (ksw : Vector Word 24) (x y : Block) (j : Nat), j < 8 →
    (∀ m < 8, m ≠ j → blockByte x m = blockByte y m) →
    ∀ i < 8, i ≠ ([4, 6, 2, 3, 5, 1, 0, 7] : List Nat).getD j 0 →
      blockByte (blockCipher ksw x) i = blockByte (blockCipher ksw y) i

/-- R180: for one key file and one latched IV, two counter values give two keystream blocks. -/
def Obligations.CounterValuesGiveDistinctBlocks : Prop :=
  ∀ s t : State, s.ksw = t.ksw → s.ivl0 = t.ivl0 → s.ivl1H = t.ivl1H → s.ctr ≠ t.ctr →
    keystreamBlock s ≠ keystreamBlock t

/-- R153: ROUND k equals PERM, then SUBB, then KMIX k, with BOUT copied to BIN between them. -/
def Obligations.RoundIsPermThenSubbThenKmix : Prop :=
  ∀ (k : Byte) (s : State), k.toNat ≤ 11 → Keyed s →
    ∃ t u w r, exec .perm s = .next t ∧ exec .subb { t with bin := t.bout } = .next u ∧
      exec (.kmix k) { u with bin := u.bout } = .next w ∧ exec (.round k) s = .next r ∧ w.bout = r.bout

/-- R153: twelve ROUNDs with k = 0..11, BOUT copied to BIN between them, give the block that ENCRYPT gives. -/
def Obligations.TwelveRoundCommandsEqualEncrypt : Prop :=
  ∀ s : State, Keyed s → ∃ t u, runRounds 0 12 s = some t ∧ exec .encrypt s = .next u ∧ t.bout = u.bout

/-! ### Transform sessions -/

/-- R176: a session of L bytes, from wherever the stream stands, completes where the stream has blocks enough left, and
gives, block by block, the data XORed with the keystream blocks of the counters from CTR on, cut at L bytes. -/
def Obligations.SessionOutputIsDataXorKeystream : Prop :=
  ∀ (s : State) (len : Word) (data : List Block), CanEmit s → s.xrem = 0 →
    data.length = (len.toNat + 7) / 8 → data.length ≤ 65536 - s.ctr.toNat →
    ∃ out t, runTransform len data s = some (out, t) ∧ out.length = data.length ∧
      ∀ i < data.length, out.getD i 0 = clip len.toNat i
        (data.getD i 0 ^^^ blockCipher s.ksw (s.ivl0 ++ s.ivl1H ++ BitVec.ofNat 16 (s.ctr.toNat + i)))

/-- R178: a session of L bytes leaves no byte to go, and advances the counter by exactly `ceil_div(L, 8)`: to that value, or,
where it is 65536, to EXHAUSTED; no byte, no advance. -/
def Obligations.SessionAdvancesTheCounterByItsBlocks : Prop :=
  ∀ (s : State) (len : Word) (data : List Block), CanEmit s → s.xrem = 0 →
    data.length = (len.toNat + 7) / 8 → data.length ≤ 65536 - s.ctr.toNat →
    ∃ out t, runTransform len data s = some (out, t) ∧ t.xrem = 0 ∧
    (s.ctr.toNat + data.length < 65536 → t.ctr.toNat = s.ctr.toNat + data.length ∧ t.stream ≠ .exhausted) ∧
    (s.ctr.toNat + data.length = 65536 → t.ctr = 0xFFFF ∧ t.stream = .exhausted) ∧
    (data = [] → t.ctr = s.ctr ∧ t.stream = s.stream)

/-- R179: the transform is its own inverse: a second session from counter 0, on the first one's output, gives back the
data (its L bytes). Both restarts are by CTRRST; the restart by EXPAND is not stated here. -/
def Obligations.TransformTwiceRestoresTheData : Prop :=
  ∀ (s : State) (len : Word) (data : List Block), Keyed s → len.toNat ≤ 524288 →
    data.length = (len.toNat + 7) / 8 →
    ∃ out back t u, runSession len data s = some (out, t) ∧ runSession len out t = some (back, u) ∧
      back.length = data.length ∧ ∀ i < data.length, back.getD i 0 = clip len.toNat i (data.getD i 0)

/-! ### The host above the core -/

/-- R86, R65, R255: a host program's RD, presented to the port while no commit is due, the BUSY window included, gives its
name the value the register reads as, changes no register of the core, and moves on; a pending command has one cycle less
to go, and the value joins those the program's reads returned (R263). The host's list of turns and the list of replies
are the model's own (log 2, log 13). -/
def Obligations.HostReadGivesTheNameTheRegister : Prop :=
  ∀ (h : HostState) (r : Reg) (n : Nat) (rest : List HostTurn), h.program[h.pc]? = some (.rd r n) →
    (∀ v, h.core.pending ≠ some ⟨v, 0⟩) → h.core.inbox = [] → h.turns = .proceeds :: rest →
    ∃ k, hostStep h = .next k ∧ nameValue k.names n = readReg r h.core ∧ k.pc = h.pc + 1 ∧ k.turns = rest ∧
      k.reads = h.reads ++ [readReg r h.core] ∧
      (∀ m, m ≠ n → nameValue k.names m = nameValue h.names m) ∧
      k.core = { h.core with pending := k.core.pending, replies := h.core.replies ++ [readReg r h.core] } ∧
      (h.core.pending = none → k.core.pending = none) ∧
      (∀ v c, h.core.pending = some ⟨v, c + 1⟩ → k.core.pending = some ⟨v, c⟩)
end

