-- ==== Sys2Proof/Laws/Bytes.lean ====
section
/-! SUPPORT. Bytes of words and blocks: the byte of a word or block built from bytes, and equality byte by byte. -/

namespace Sys2Proof.Machine

/-- Byte `j` of a block built from bytes is the `j`-th of them. -/
theorem blockByte_blockOf (f : Nat → Byte) {j : Nat} (hj : j < 8) : blockByte (blockOf f) j = f j := by
  unfold blockByte blockOf
  interval_cases j <;> (ext i hi; simp only [BitVec.getElem_extractLsb', BitVec.getLsbD_append]; grind)

/-- Byte `j` of a word built from bytes is the `j`-th of them. -/
theorem wordByte_wordOf (f : Nat → Byte) {j : Nat} (hj : j < 4) : wordByte (wordOf f) j = f j := by
  unfold wordByte wordOf
  interval_cases j <;> (ext i hi; simp only [BitVec.getElem_extractLsb', BitVec.getLsbD_append]; grind)

/-- A block is its eight bytes. -/
theorem blockOf_blockByte (x : Block) : blockOf (blockByte x) = x := by
  unfold blockOf blockByte
  ext i hi
  grind

/-- Two blocks with the same eight bytes are equal. -/
theorem block_ext {x y : Block} (h : ∀ j < 8, blockByte x j = blockByte y j) : x = y := by
  rw [← blockOf_blockByte x, ← blockOf_blockByte y]
  simp [blockOf, h]

/-- A word is its four bytes. -/
theorem wordOf_wordByte (w : Word) : wordOf (wordByte w) = w := by
  unfold wordOf wordByte
  ext i hi
  grind

/-- Two words with the same four bytes are equal. -/
theorem word_ext {v w : Word} (h : ∀ j < 4, wordByte v j = wordByte w j) : v = w := by
  rw [← wordOf_wordByte v, ← wordOf_wordByte w]
  simp [wordOf, h]

/-- Bytes of an exclusive OR of words. -/
@[simp] theorem wordByte_xor (v w : Word) (j : Nat) :
    wordByte (v ^^^ w) j = wordByte v j ^^^ wordByte w j := by
  unfold wordByte; ext i hi; simp

/-- Bytes of a word put together from four bytes. -/
theorem wordByte_append (a b c d : Byte) {j : Nat} (hj : j < 4) :
    wordByte (a ++ b ++ c ++ d) j = [a, b, c, d].getD j 0 :=
  wordByte_wordOf (fun j => [a, b, c, d].getD j 0) hj

/-- Bytes of an exclusive OR. -/
@[simp] theorem blockByte_xor (x y : Block) (j : Nat) :
    blockByte (x ^^^ y) j = blockByte x j ^^^ blockByte y j := by
  unfold blockByte; ext i hi; simp

/-- Bytes of an AND. -/
@[simp] theorem blockByte_and (x y : Block) (j : Nat) :
    blockByte (x &&& y) j = blockByte x j &&& blockByte y j := by
  unfold blockByte; ext i hi; simp

/-- `σ` keeps positions in a block (R140). -/
theorem sigma_lt {i : Nat} (hi : i < 8) : sigma i < 8 := by
  interval_cases i <;> decide

/-- Bytes of a permuted block (R141). -/
theorem blockByte_permute (x : Block) {i : Nat} (hi : i < 8) :
    blockByte (permute x) i = blockByte x (sigma i) := blockByte_blockOf _ hi

/-- Bytes of a substituted block (R143). -/
theorem blockByte_subBlock (x : Block) {i : Nat} (hi : i < 8) :
    blockByte (subBlock x) i = sbox (blockByte x i) := blockByte_blockOf _ hi

/-- Bytes of the mask of the last chunk (R188). -/
theorem blockByte_leadingMask (n : Nat) {j : Nat} (hj : j < 8) :
    blockByte (leadingMask n) j = if j < n then 0xFF else 0x00 :=
  blockByte_blockOf _ hj

end Sys2Proof.Machine
end

