-- ==== Sys2Proof/Laws/PerInstr.lean ====
section
/-! SUPPORT. A statement about every command, lemma by lemma: the fields of its encoding (R80, R82, R83). -/

/-- The word of `i` holds its opcode in OP, its argument in ARG and zero in RSV (R80). -/
def Sys2Proof.Laws.EncodedFields.Statement (i : Sys2Proof.Instr) : Prop :=
  Sys2Proof.opField (Sys2Proof.encode i) = Sys2Proof.opcode i ∧
  Sys2Proof.argField (Sys2Proof.encode i) = Sys2Proof.argument i ∧ Sys2Proof.rsvField (Sys2Proof.encode i) = 0

namespace Sys2Proof.Laws.EncodedFields

/-- The fields of a word put together from an argument and an opcode. -/
theorem fields_of_append (a op : Byte) :
    opField ((0 : Half) ++ a ++ op) = op ∧ argField ((0 : Half) ++ a ++ op) = a ∧
      rsvField ((0 : Half) ++ a ++ op) = 0 := by
  refine ⟨?_, ?_, ?_⟩
  · ext i hi
    simp only [opField, BitVec.getElem_extractLsb', BitVec.getLsbD_append]
    grind
  · ext i hi
    simp only [argField, BitVec.getElem_extractLsb', BitVec.getLsbD_append]
    grind
  · ext i hi
    simp only [rsvField, BitVec.getElem_extractLsb']
    grind

theorem nop : Statement .nop := fields_of_append _ _
theorem clear : Statement .clear := fields_of_append _ _
theorem expand (len : Byte) : Statement (.expand len) := fields_of_append _ _
theorem ctrrst : Statement .ctrrst := fields_of_append _ _
theorem wtrans : Statement .wtrans := fields_of_append _ _
theorem subw : Statement .subw := fields_of_append _ _
theorem rotw : Statement .rotw := fields_of_append _ _
theorem round (k : Byte) : Statement (.round k) := fields_of_append _ _
theorem encrypt : Statement .encrypt := fields_of_append _ _
theorem perm : Statement .perm := fields_of_append _ _
theorem subb : Statement .subb := fields_of_append _ _
theorem kmix (k : Byte) : Statement (.kmix k) := fields_of_append _ _
theorem ksblk : Statement .ksblk := fields_of_append _ _
theorem xstart : Statement .xstart := fields_of_append _ _
theorem xblock : Statement .xblock := fields_of_append _ _

end Sys2Proof.Laws.EncodedFields
end

