-- ==== Sys2Proof/Laws/Encoding.lean ====
section
/-! SUPPORT. Command words as numbers (R80): the fields of a word, and the word put together from its fields. -/

namespace Sys2Proof

/-- OP is the lowest byte of the number. -/
theorem opField_toNat (v : Word) : (opField v).toNat = v.toNat % 256 := by
  simp [opField]

/-- ARG is the second byte of the number. -/
theorem argField_toNat (v : Word) : (argField v).toNat = v.toNat / 256 % 256 := by
  simp [argField, Nat.shiftRight_eq_div_pow]

/-- RSV is what is left above the two lowest bytes. -/
theorem rsvField_toNat (v : Word) : (rsvField v).toNat = v.toNat / 65536 := by
  simp [rsvField, Nat.shiftRight_eq_div_pow]
  omega

/-- The number of a command word. -/
theorem encode_toNat (i : Instr) : (encode i).toNat = (argument i).toNat * 256 + (opcode i).toNat := by
  obtain ⟨h1, h2, h3⟩ := Laws.EncodedFields.fields_of_append (argument i) (opcode i)
  have a := opField_toNat (encode i)
  have b := argField_toNat (encode i)
  have c := rsvField_toNat (encode i)
  unfold encode at a b c ⊢
  rw [h1] at a
  rw [h2] at b
  rw [h3] at c
  have c' := c.symm.trans (b := 0) rfl
  rw [a, b]
  omega

end Sys2Proof
end

