-- ==== Sys2Proof/Laws/State.lean ====
section
/-! SUPPORT. The fields of the state after each shared update: one lemma per field per update, so that no proof unfolds a
record update. -/

namespace Sys2Proof.Machine

/-! ### finish -/

@[simp] theorem finish_seed (e : ErrorCode) (s : State) : (finish e s).seed = s.seed := rfl
@[simp] theorem finish_iv0 (e : ErrorCode) (s : State) : (finish e s).iv0 = s.iv0 := rfl
@[simp] theorem finish_iv1H (e : ErrorCode) (s : State) : (finish e s).iv1H = s.iv1H := rfl
@[simp] theorem finish_ivl0 (e : ErrorCode) (s : State) : (finish e s).ivl0 = s.ivl0 := rfl
@[simp] theorem finish_ivl1H (e : ErrorCode) (s : State) : (finish e s).ivl1H = s.ivl1H := rfl
@[simp] theorem finish_length (e : ErrorCode) (s : State) : (finish e s).length = s.length := rfl
@[simp] theorem finish_win (e : ErrorCode) (s : State) : (finish e s).win = s.win := rfl
@[simp] theorem finish_wout (e : ErrorCode) (s : State) : (finish e s).wout = s.wout := rfl
@[simp] theorem finish_bin (e : ErrorCode) (s : State) : (finish e s).bin = s.bin := rfl
@[simp] theorem finish_bout (e : ErrorCode) (s : State) : (finish e s).bout = s.bout := rfl
@[simp] theorem finish_ksw (e : ErrorCode) (s : State) : (finish e s).ksw = s.ksw := rfl
@[simp] theorem finish_ctr (e : ErrorCode) (s : State) : (finish e s).ctr = s.ctr := rfl
@[simp] theorem finish_stream (e : ErrorCode) (s : State) : (finish e s).stream = s.stream := rfl
@[simp] theorem finish_xrem (e : ErrorCode) (s : State) : (finish e s).xrem = s.xrem := rfl
@[simp] theorem finish_err (e : ErrorCode) (s : State) : (finish e s).err = errCode e := rfl
@[simp] theorem finish_drop (e : ErrorCode) (s : State) : (finish e s).drop = s.drop := rfl
@[simp] theorem finish_busy (e : ErrorCode) (s : State) : (finish e s).busy = false := rfl
@[simp] theorem finish_pending (e : ErrorCode) (s : State) : (finish e s).pending = none := rfl
@[simp] theorem finish_inbox (e : ErrorCode) (s : State) : (finish e s).inbox = s.inbox := rfl
@[simp] theorem finish_replies (e : ErrorCode) (s : State) : (finish e s).replies = s.replies := rfl
@[simp] theorem finish_draws (e : ErrorCode) (s : State) : (finish e s).draws = s.draws := rfl

/-! ### afterOk -/

@[simp] theorem afterOk_seed (s : State) : (afterOk s).seed = s.seed := rfl
@[simp] theorem afterOk_iv0 (s : State) : (afterOk s).iv0 = s.iv0 := rfl
@[simp] theorem afterOk_iv1H (s : State) : (afterOk s).iv1H = s.iv1H := rfl
@[simp] theorem afterOk_ivl0 (s : State) : (afterOk s).ivl0 = s.ivl0 := rfl
@[simp] theorem afterOk_ivl1H (s : State) : (afterOk s).ivl1H = s.ivl1H := rfl
@[simp] theorem afterOk_length (s : State) : (afterOk s).length = s.length := rfl
@[simp] theorem afterOk_win (s : State) : (afterOk s).win = s.win := rfl
@[simp] theorem afterOk_wout (s : State) : (afterOk s).wout = s.wout := rfl
@[simp] theorem afterOk_bin (s : State) : (afterOk s).bin = s.bin := rfl
@[simp] theorem afterOk_bout (s : State) : (afterOk s).bout = s.bout := rfl
@[simp] theorem afterOk_ksw (s : State) : (afterOk s).ksw = s.ksw := rfl
@[simp] theorem afterOk_ctr (s : State) : (afterOk s).ctr = s.ctr := rfl
@[simp] theorem afterOk_stream (s : State) : (afterOk s).stream = s.stream := rfl
@[simp] theorem afterOk_xrem (s : State) : (afterOk s).xrem = s.xrem := rfl
@[simp] theorem afterOk_err (s : State) : (afterOk s).err = 0 := rfl
@[simp] theorem afterOk_drop (s : State) : (afterOk s).drop = s.drop := rfl
@[simp] theorem afterOk_busy (s : State) : (afterOk s).busy = false := rfl
@[simp] theorem afterOk_pending (s : State) : (afterOk s).pending = none := rfl
@[simp] theorem afterOk_inbox (s : State) : (afterOk s).inbox = s.inbox := rfl
@[simp] theorem afterOk_replies (s : State) : (afterOk s).replies = s.replies := rfl
@[simp] theorem afterOk_draws (s : State) : (afterOk s).draws = s.draws := rfl

/-! ### afterError -/

@[simp] theorem afterError_seed (c : BitVec 4) (s : State) : (afterError c s).seed = s.seed := rfl
@[simp] theorem afterError_iv0 (c : BitVec 4) (s : State) : (afterError c s).iv0 = s.iv0 := rfl
@[simp] theorem afterError_iv1H (c : BitVec 4) (s : State) : (afterError c s).iv1H = s.iv1H := rfl
@[simp] theorem afterError_ivl0 (c : BitVec 4) (s : State) : (afterError c s).ivl0 = s.ivl0 := rfl
@[simp] theorem afterError_ivl1H (c : BitVec 4) (s : State) : (afterError c s).ivl1H = s.ivl1H := rfl
@[simp] theorem afterError_length (c : BitVec 4) (s : State) : (afterError c s).length = s.length := rfl
@[simp] theorem afterError_win (c : BitVec 4) (s : State) : (afterError c s).win = s.win := rfl
@[simp] theorem afterError_wout (c : BitVec 4) (s : State) : (afterError c s).wout = s.wout := rfl
@[simp] theorem afterError_bin (c : BitVec 4) (s : State) : (afterError c s).bin = s.bin := rfl
@[simp] theorem afterError_bout (c : BitVec 4) (s : State) : (afterError c s).bout = s.bout := rfl
@[simp] theorem afterError_ksw (c : BitVec 4) (s : State) : (afterError c s).ksw = s.ksw := rfl
@[simp] theorem afterError_ctr (c : BitVec 4) (s : State) : (afterError c s).ctr = s.ctr := rfl
@[simp] theorem afterError_stream (c : BitVec 4) (s : State) : (afterError c s).stream = s.stream := rfl
@[simp] theorem afterError_xrem (c : BitVec 4) (s : State) : (afterError c s).xrem = s.xrem := rfl
@[simp] theorem afterError_err (c : BitVec 4) (s : State) : (afterError c s).err = c := rfl
@[simp] theorem afterError_drop (c : BitVec 4) (s : State) : (afterError c s).drop = s.drop := rfl
@[simp] theorem afterError_busy (c : BitVec 4) (s : State) : (afterError c s).busy = false := rfl
@[simp] theorem afterError_pending (c : BitVec 4) (s : State) : (afterError c s).pending = none := rfl
@[simp] theorem afterError_inbox (c : BitVec 4) (s : State) : (afterError c s).inbox = s.inbox := rfl
@[simp] theorem afterError_replies (c : BitVec 4) (s : State) : (afterError c s).replies = s.replies := rfl
@[simp] theorem afterError_draws (c : BitVec 4) (s : State) : (afterError c s).draws = s.draws := rfl

/-! ### startCommand -/

@[simp] theorem startCommand_seed (v : Word) (s : State) : (startCommand v s).seed = s.seed := rfl
@[simp] theorem startCommand_iv0 (v : Word) (s : State) : (startCommand v s).iv0 = s.iv0 := rfl
@[simp] theorem startCommand_iv1H (v : Word) (s : State) : (startCommand v s).iv1H = s.iv1H := rfl
@[simp] theorem startCommand_ivl0 (v : Word) (s : State) : (startCommand v s).ivl0 = s.ivl0 := rfl
@[simp] theorem startCommand_ivl1H (v : Word) (s : State) : (startCommand v s).ivl1H = s.ivl1H := rfl
@[simp] theorem startCommand_length (v : Word) (s : State) : (startCommand v s).length = s.length := rfl
@[simp] theorem startCommand_win (v : Word) (s : State) : (startCommand v s).win = s.win := rfl
@[simp] theorem startCommand_wout (v : Word) (s : State) : (startCommand v s).wout = s.wout := rfl
@[simp] theorem startCommand_bin (v : Word) (s : State) : (startCommand v s).bin = s.bin := rfl
@[simp] theorem startCommand_bout (v : Word) (s : State) : (startCommand v s).bout = s.bout := rfl
@[simp] theorem startCommand_ksw (v : Word) (s : State) : (startCommand v s).ksw = s.ksw := rfl
@[simp] theorem startCommand_ctr (v : Word) (s : State) : (startCommand v s).ctr = s.ctr := rfl
@[simp] theorem startCommand_stream (v : Word) (s : State) : (startCommand v s).stream = s.stream := rfl
@[simp] theorem startCommand_xrem (v : Word) (s : State) : (startCommand v s).xrem = s.xrem := rfl
@[simp] theorem startCommand_err (v : Word) (s : State) : (startCommand v s).err = s.err := rfl
@[simp] theorem startCommand_drop (v : Word) (s : State) : (startCommand v s).drop = s.drop := rfl
@[simp] theorem startCommand_busy (v : Word) (s : State) : (startCommand v s).busy = true := rfl
@[simp] theorem startCommand_pending (v : Word) (s : State) : (startCommand v s).pending = some ⟨v, latency v s⟩ := rfl
@[simp] theorem startCommand_inbox (v : Word) (s : State) : (startCommand v s).inbox = s.inbox := rfl
@[simp] theorem startCommand_replies (v : Word) (s : State) : (startCommand v s).replies = s.replies := rfl
@[simp] theorem startCommand_draws (v : Word) (s : State) : (startCommand v s).draws = s.draws + 1 := rfl

/-! ### placeCommand -/

@[simp] theorem placeCommand_seed (v : Word) (s : State) : (placeCommand v s).seed = s.seed := rfl
@[simp] theorem placeCommand_iv0 (v : Word) (s : State) : (placeCommand v s).iv0 = s.iv0 := rfl
@[simp] theorem placeCommand_iv1H (v : Word) (s : State) : (placeCommand v s).iv1H = s.iv1H := rfl
@[simp] theorem placeCommand_ivl0 (v : Word) (s : State) : (placeCommand v s).ivl0 = s.ivl0 := rfl
@[simp] theorem placeCommand_ivl1H (v : Word) (s : State) : (placeCommand v s).ivl1H = s.ivl1H := rfl
@[simp] theorem placeCommand_length (v : Word) (s : State) : (placeCommand v s).length = s.length := rfl
@[simp] theorem placeCommand_win (v : Word) (s : State) : (placeCommand v s).win = s.win := rfl
@[simp] theorem placeCommand_wout (v : Word) (s : State) : (placeCommand v s).wout = s.wout := rfl
@[simp] theorem placeCommand_bin (v : Word) (s : State) : (placeCommand v s).bin = s.bin := rfl
@[simp] theorem placeCommand_bout (v : Word) (s : State) : (placeCommand v s).bout = s.bout := rfl
@[simp] theorem placeCommand_ksw (v : Word) (s : State) : (placeCommand v s).ksw = s.ksw := rfl
@[simp] theorem placeCommand_ctr (v : Word) (s : State) : (placeCommand v s).ctr = s.ctr := rfl
@[simp] theorem placeCommand_stream (v : Word) (s : State) : (placeCommand v s).stream = s.stream := rfl
@[simp] theorem placeCommand_xrem (v : Word) (s : State) : (placeCommand v s).xrem = s.xrem := rfl
@[simp] theorem placeCommand_err (v : Word) (s : State) : (placeCommand v s).err = s.err := rfl
@[simp] theorem placeCommand_drop (v : Word) (s : State) : (placeCommand v s).drop = s.drop := rfl
@[simp] theorem placeCommand_busy (v : Word) (s : State) : (placeCommand v s).busy = true := rfl
@[simp] theorem placeCommand_pending (v : Word) (s : State) : (placeCommand v s).pending = some ⟨v, 0⟩ := rfl
@[simp] theorem placeCommand_inbox (v : Word) (s : State) : (placeCommand v s).inbox = s.inbox := rfl
@[simp] theorem placeCommand_replies (v : Word) (s : State) : (placeCommand v s).replies = s.replies := rfl
@[simp] theorem placeCommand_draws (v : Word) (s : State) : (placeCommand v s).draws = s.draws := rfl

/-! ### markDropped -/

@[simp] theorem markDropped_seed (s : State) : (markDropped s).seed = s.seed := rfl
@[simp] theorem markDropped_iv0 (s : State) : (markDropped s).iv0 = s.iv0 := rfl
@[simp] theorem markDropped_iv1H (s : State) : (markDropped s).iv1H = s.iv1H := rfl
@[simp] theorem markDropped_ivl0 (s : State) : (markDropped s).ivl0 = s.ivl0 := rfl
@[simp] theorem markDropped_ivl1H (s : State) : (markDropped s).ivl1H = s.ivl1H := rfl
@[simp] theorem markDropped_length (s : State) : (markDropped s).length = s.length := rfl
@[simp] theorem markDropped_win (s : State) : (markDropped s).win = s.win := rfl
@[simp] theorem markDropped_wout (s : State) : (markDropped s).wout = s.wout := rfl
@[simp] theorem markDropped_bin (s : State) : (markDropped s).bin = s.bin := rfl
@[simp] theorem markDropped_bout (s : State) : (markDropped s).bout = s.bout := rfl
@[simp] theorem markDropped_ksw (s : State) : (markDropped s).ksw = s.ksw := rfl
@[simp] theorem markDropped_ctr (s : State) : (markDropped s).ctr = s.ctr := rfl
@[simp] theorem markDropped_stream (s : State) : (markDropped s).stream = s.stream := rfl
@[simp] theorem markDropped_xrem (s : State) : (markDropped s).xrem = s.xrem := rfl
@[simp] theorem markDropped_err (s : State) : (markDropped s).err = s.err := rfl
@[simp] theorem markDropped_drop (s : State) : (markDropped s).drop = true := rfl
@[simp] theorem markDropped_busy (s : State) : (markDropped s).busy = s.busy := rfl
@[simp] theorem markDropped_pending (s : State) : (markDropped s).pending = s.pending := rfl
@[simp] theorem markDropped_inbox (s : State) : (markDropped s).inbox = s.inbox := rfl
@[simp] theorem markDropped_replies (s : State) : (markDropped s).replies = s.replies := rfl
@[simp] theorem markDropped_draws (s : State) : (markDropped s).draws = s.draws := rfl

/-! ### recordReply -/

@[simp] theorem recordReply_seed (v : Word) (s : State) : (recordReply v s).seed = s.seed := rfl
@[simp] theorem recordReply_iv0 (v : Word) (s : State) : (recordReply v s).iv0 = s.iv0 := rfl
@[simp] theorem recordReply_iv1H (v : Word) (s : State) : (recordReply v s).iv1H = s.iv1H := rfl
@[simp] theorem recordReply_ivl0 (v : Word) (s : State) : (recordReply v s).ivl0 = s.ivl0 := rfl
@[simp] theorem recordReply_ivl1H (v : Word) (s : State) : (recordReply v s).ivl1H = s.ivl1H := rfl
@[simp] theorem recordReply_length (v : Word) (s : State) : (recordReply v s).length = s.length := rfl
@[simp] theorem recordReply_win (v : Word) (s : State) : (recordReply v s).win = s.win := rfl
@[simp] theorem recordReply_wout (v : Word) (s : State) : (recordReply v s).wout = s.wout := rfl
@[simp] theorem recordReply_bin (v : Word) (s : State) : (recordReply v s).bin = s.bin := rfl
@[simp] theorem recordReply_bout (v : Word) (s : State) : (recordReply v s).bout = s.bout := rfl
@[simp] theorem recordReply_ksw (v : Word) (s : State) : (recordReply v s).ksw = s.ksw := rfl
@[simp] theorem recordReply_ctr (v : Word) (s : State) : (recordReply v s).ctr = s.ctr := rfl
@[simp] theorem recordReply_stream (v : Word) (s : State) : (recordReply v s).stream = s.stream := rfl
@[simp] theorem recordReply_xrem (v : Word) (s : State) : (recordReply v s).xrem = s.xrem := rfl
@[simp] theorem recordReply_err (v : Word) (s : State) : (recordReply v s).err = s.err := rfl
@[simp] theorem recordReply_drop (v : Word) (s : State) : (recordReply v s).drop = s.drop := rfl
@[simp] theorem recordReply_busy (v : Word) (s : State) : (recordReply v s).busy = s.busy := rfl
@[simp] theorem recordReply_pending (v : Word) (s : State) : (recordReply v s).pending = s.pending := rfl
@[simp] theorem recordReply_inbox (v : Word) (s : State) : (recordReply v s).inbox = s.inbox := rfl
@[simp] theorem recordReply_replies (v : Word) (s : State) : (recordReply v s).replies = s.replies ++ [v] := rfl
@[simp] theorem recordReply_draws (v : Word) (s : State) : (recordReply v s).draws = s.draws := rfl

/-! ### latchIv -/

@[simp] theorem latchIv_seed (s : State) : (latchIv s).seed = s.seed := rfl
@[simp] theorem latchIv_iv0 (s : State) : (latchIv s).iv0 = s.iv0 := rfl
@[simp] theorem latchIv_iv1H (s : State) : (latchIv s).iv1H = s.iv1H := rfl
@[simp] theorem latchIv_ivl0 (s : State) : (latchIv s).ivl0 = s.iv0 := rfl
@[simp] theorem latchIv_ivl1H (s : State) : (latchIv s).ivl1H = s.iv1H := rfl
@[simp] theorem latchIv_length (s : State) : (latchIv s).length = s.length := rfl
@[simp] theorem latchIv_win (s : State) : (latchIv s).win = s.win := rfl
@[simp] theorem latchIv_wout (s : State) : (latchIv s).wout = s.wout := rfl
@[simp] theorem latchIv_bin (s : State) : (latchIv s).bin = s.bin := rfl
@[simp] theorem latchIv_bout (s : State) : (latchIv s).bout = s.bout := rfl
@[simp] theorem latchIv_ksw (s : State) : (latchIv s).ksw = s.ksw := rfl
@[simp] theorem latchIv_ctr (s : State) : (latchIv s).ctr = s.ctr := rfl
@[simp] theorem latchIv_stream (s : State) : (latchIv s).stream = s.stream := rfl
@[simp] theorem latchIv_xrem (s : State) : (latchIv s).xrem = s.xrem := rfl
@[simp] theorem latchIv_err (s : State) : (latchIv s).err = s.err := rfl
@[simp] theorem latchIv_drop (s : State) : (latchIv s).drop = s.drop := rfl
@[simp] theorem latchIv_busy (s : State) : (latchIv s).busy = s.busy := rfl
@[simp] theorem latchIv_pending (s : State) : (latchIv s).pending = s.pending := rfl
@[simp] theorem latchIv_inbox (s : State) : (latchIv s).inbox = s.inbox := rfl
@[simp] theorem latchIv_replies (s : State) : (latchIv s).replies = s.replies := rfl
@[simp] theorem latchIv_draws (s : State) : (latchIv s).draws = s.draws := rfl

/-! ### restartStream -/

@[simp] theorem restartStream_seed (s : State) : (restartStream s).seed = s.seed := rfl
@[simp] theorem restartStream_iv0 (s : State) : (restartStream s).iv0 = s.iv0 := rfl
@[simp] theorem restartStream_iv1H (s : State) : (restartStream s).iv1H = s.iv1H := rfl
@[simp] theorem restartStream_ivl0 (s : State) : (restartStream s).ivl0 = s.ivl0 := rfl
@[simp] theorem restartStream_ivl1H (s : State) : (restartStream s).ivl1H = s.ivl1H := rfl
@[simp] theorem restartStream_length (s : State) : (restartStream s).length = s.length := rfl
@[simp] theorem restartStream_win (s : State) : (restartStream s).win = s.win := rfl
@[simp] theorem restartStream_wout (s : State) : (restartStream s).wout = s.wout := rfl
@[simp] theorem restartStream_bin (s : State) : (restartStream s).bin = s.bin := rfl
@[simp] theorem restartStream_bout (s : State) : (restartStream s).bout = s.bout := rfl
@[simp] theorem restartStream_ksw (s : State) : (restartStream s).ksw = s.ksw := rfl
@[simp] theorem restartStream_ctr (s : State) : (restartStream s).ctr = 0 := rfl
@[simp] theorem restartStream_stream (s : State) : (restartStream s).stream = .init := rfl
@[simp] theorem restartStream_xrem (s : State) : (restartStream s).xrem = 0 := rfl
@[simp] theorem restartStream_err (s : State) : (restartStream s).err = s.err := rfl
@[simp] theorem restartStream_drop (s : State) : (restartStream s).drop = s.drop := rfl
@[simp] theorem restartStream_busy (s : State) : (restartStream s).busy = s.busy := rfl
@[simp] theorem restartStream_pending (s : State) : (restartStream s).pending = s.pending := rfl
@[simp] theorem restartStream_inbox (s : State) : (restartStream s).inbox = s.inbox := rfl
@[simp] theorem restartStream_replies (s : State) : (restartStream s).replies = s.replies := rfl
@[simp] theorem restartStream_draws (s : State) : (restartStream s).draws = s.draws := rfl

/-! ### resetCore -/

@[simp] theorem resetCore_seed (s : State) : (resetCore s).seed = Vector.replicate 4 0 := rfl
@[simp] theorem resetCore_iv0 (s : State) : (resetCore s).iv0 = 0 := rfl
@[simp] theorem resetCore_iv1H (s : State) : (resetCore s).iv1H = 0 := rfl
@[simp] theorem resetCore_ivl0 (s : State) : (resetCore s).ivl0 = 0 := rfl
@[simp] theorem resetCore_ivl1H (s : State) : (resetCore s).ivl1H = 0 := rfl
@[simp] theorem resetCore_length (s : State) : (resetCore s).length = 0 := rfl
@[simp] theorem resetCore_win (s : State) : (resetCore s).win = 0 := rfl
@[simp] theorem resetCore_wout (s : State) : (resetCore s).wout = 0 := rfl
@[simp] theorem resetCore_bin (s : State) : (resetCore s).bin = 0 := rfl
@[simp] theorem resetCore_bout (s : State) : (resetCore s).bout = 0 := rfl
@[simp] theorem resetCore_ksw (s : State) : (resetCore s).ksw = Vector.replicate 24 0 := rfl
@[simp] theorem resetCore_ctr (s : State) : (resetCore s).ctr = 0 := rfl
@[simp] theorem resetCore_stream (s : State) : (resetCore s).stream = .noKey := rfl
@[simp] theorem resetCore_xrem (s : State) : (resetCore s).xrem = 0 := rfl
@[simp] theorem resetCore_err (s : State) : (resetCore s).err = 0 := rfl
@[simp] theorem resetCore_drop (s : State) : (resetCore s).drop = false := rfl
@[simp] theorem resetCore_busy (s : State) : (resetCore s).busy = false := rfl
@[simp] theorem resetCore_pending (s : State) : (resetCore s).pending = none := rfl
@[simp] theorem resetCore_inbox (s : State) : (resetCore s).inbox = s.inbox := rfl
@[simp] theorem resetCore_replies (s : State) : (resetCore s).replies = s.replies := rfl
@[simp] theorem resetCore_draws (s : State) : (resetCore s).draws = s.draws := rfl

/-! ### advanceCounter -/

@[simp] theorem advanceCounter_seed (s : State) : (advanceCounter s).seed = s.seed := by
  unfold advanceCounter; split <;> rfl
@[simp] theorem advanceCounter_iv0 (s : State) : (advanceCounter s).iv0 = s.iv0 := by
  unfold advanceCounter; split <;> rfl
@[simp] theorem advanceCounter_iv1H (s : State) : (advanceCounter s).iv1H = s.iv1H := by
  unfold advanceCounter; split <;> rfl
@[simp] theorem advanceCounter_ivl0 (s : State) : (advanceCounter s).ivl0 = s.ivl0 := by
  unfold advanceCounter; split <;> rfl
@[simp] theorem advanceCounter_ivl1H (s : State) : (advanceCounter s).ivl1H = s.ivl1H := by
  unfold advanceCounter; split <;> rfl
@[simp] theorem advanceCounter_length (s : State) : (advanceCounter s).length = s.length := by
  unfold advanceCounter; split <;> rfl
@[simp] theorem advanceCounter_win (s : State) : (advanceCounter s).win = s.win := by
  unfold advanceCounter; split <;> rfl
@[simp] theorem advanceCounter_wout (s : State) : (advanceCounter s).wout = s.wout := by
  unfold advanceCounter; split <;> rfl
@[simp] theorem advanceCounter_bin (s : State) : (advanceCounter s).bin = s.bin := by
  unfold advanceCounter; split <;> rfl
@[simp] theorem advanceCounter_bout (s : State) : (advanceCounter s).bout = s.bout := by
  unfold advanceCounter; split <;> rfl
@[simp] theorem advanceCounter_ksw (s : State) : (advanceCounter s).ksw = s.ksw := by
  unfold advanceCounter; split <;> rfl
@[simp] theorem advanceCounter_xrem (s : State) : (advanceCounter s).xrem = s.xrem := by
  unfold advanceCounter; split <;> rfl
@[simp] theorem advanceCounter_err (s : State) : (advanceCounter s).err = s.err := by
  unfold advanceCounter; split <;> rfl
@[simp] theorem advanceCounter_drop (s : State) : (advanceCounter s).drop = s.drop := by
  unfold advanceCounter; split <;> rfl
@[simp] theorem advanceCounter_busy (s : State) : (advanceCounter s).busy = s.busy := by
  unfold advanceCounter; split <;> rfl
@[simp] theorem advanceCounter_pending (s : State) : (advanceCounter s).pending = s.pending := by
  unfold advanceCounter; split <;> rfl
@[simp] theorem advanceCounter_inbox (s : State) : (advanceCounter s).inbox = s.inbox := by
  unfold advanceCounter; split <;> rfl
@[simp] theorem advanceCounter_replies (s : State) : (advanceCounter s).replies = s.replies := by
  unfold advanceCounter; split <;> rfl
@[simp] theorem advanceCounter_draws (s : State) : (advanceCounter s).draws = s.draws := by
  unfold advanceCounter; split <;> rfl
@[simp] theorem advanceCounter_ctr (s : State) :
    (advanceCounter s).ctr = if s.ctr = 0xFFFF then s.ctr else s.ctr + 1 := by
  unfold advanceCounter; split <;> rfl
@[simp] theorem advanceCounter_stream (s : State) :
    (advanceCounter s).stream = if s.ctr = 0xFFFF then .exhausted else .streaming := by
  unfold advanceCounter; split <;> rfl

end Sys2Proof.Machine
end

