-- ==== Sys2Proof/Laws/Ops.lean ====
section
/-! SUPPORT. What each shared operation can do, said once: the window's writes, the port, the commit and the step. Later
proofs cite these and do not unfold the operations. -/

namespace Sys2Proof.Machine

/-! ### Writes -/

@[simp] theorem writeReg_ivl0 (r : Reg) (v : Word) (s : State) : (writeReg r v s).ivl0 = s.ivl0 := by
  cases r <;> rfl
@[simp] theorem writeReg_ivl1H (r : Reg) (v : Word) (s : State) : (writeReg r v s).ivl1H = s.ivl1H := by
  cases r <;> rfl
@[simp] theorem writeReg_wout (r : Reg) (v : Word) (s : State) : (writeReg r v s).wout = s.wout := by
  cases r <;> rfl
@[simp] theorem writeReg_bout (r : Reg) (v : Word) (s : State) : (writeReg r v s).bout = s.bout := by
  cases r <;> rfl
@[simp] theorem writeReg_ksw (r : Reg) (v : Word) (s : State) : (writeReg r v s).ksw = s.ksw := by
  cases r <;> rfl
@[simp] theorem writeReg_ctr (r : Reg) (v : Word) (s : State) : (writeReg r v s).ctr = s.ctr := by
  cases r <;> rfl
@[simp] theorem writeReg_stream (r : Reg) (v : Word) (s : State) : (writeReg r v s).stream = s.stream := by
  cases r <;> rfl
@[simp] theorem writeReg_xrem (r : Reg) (v : Word) (s : State) : (writeReg r v s).xrem = s.xrem := by
  cases r <;> rfl
@[simp] theorem writeReg_err (r : Reg) (v : Word) (s : State) : (writeReg r v s).err = s.err := by
  cases r <;> rfl
@[simp] theorem writeReg_inbox (r : Reg) (v : Word) (s : State) : (writeReg r v s).inbox = s.inbox := by
  cases r <;> rfl
@[simp] theorem writeReg_replies (r : Reg) (v : Word) (s : State) : (writeReg r v s).replies = s.replies := by
  cases r <;> rfl
@[simp] theorem memWrite_ivl0 (off : Offset) (v : Word) (s : State) : (memWrite off v s).ivl0 = s.ivl0 := by
  unfold memWrite; split
  · rfl
  · split <;> simp
@[simp] theorem memWrite_ivl1H (off : Offset) (v : Word) (s : State) : (memWrite off v s).ivl1H = s.ivl1H := by
  unfold memWrite; split
  · rfl
  · split <;> simp
@[simp] theorem memWrite_wout (off : Offset) (v : Word) (s : State) : (memWrite off v s).wout = s.wout := by
  unfold memWrite; split
  · rfl
  · split <;> simp
@[simp] theorem memWrite_bout (off : Offset) (v : Word) (s : State) : (memWrite off v s).bout = s.bout := by
  unfold memWrite; split
  · rfl
  · split <;> simp
@[simp] theorem memWrite_ksw (off : Offset) (v : Word) (s : State) : (memWrite off v s).ksw = s.ksw := by
  unfold memWrite; split
  · rfl
  · split <;> simp
@[simp] theorem memWrite_ctr (off : Offset) (v : Word) (s : State) : (memWrite off v s).ctr = s.ctr := by
  unfold memWrite; split
  · rfl
  · split <;> simp
@[simp] theorem memWrite_stream (off : Offset) (v : Word) (s : State) : (memWrite off v s).stream = s.stream := by
  unfold memWrite; split
  · rfl
  · split <;> simp
@[simp] theorem memWrite_xrem (off : Offset) (v : Word) (s : State) : (memWrite off v s).xrem = s.xrem := by
  unfold memWrite; split
  · rfl
  · split <;> simp
@[simp] theorem memWrite_err (off : Offset) (v : Word) (s : State) : (memWrite off v s).err = s.err := by
  unfold memWrite; split
  · rfl
  · split <;> simp
@[simp] theorem memWrite_inbox (off : Offset) (v : Word) (s : State) : (memWrite off v s).inbox = s.inbox := by
  unfold memWrite; split
  · rfl
  · split <;> simp
@[simp] theorem memWrite_replies (off : Offset) (v : Word) (s : State) : (memWrite off v s).replies = s.replies := by
  unfold memWrite; split
  · rfl
  · split <;> simp

/-- A write while BUSY = 1 is dropped (R66, R256). -/
theorem memWrite_busy {s : State} (h : s.busy = true) (off : Offset) (v : Word) :
    memWrite off v s = markDropped s := by
  simp [memWrite, h]

/-- A write while BUSY = 0 writes the register at its offset, or does nothing (R66). -/
theorem memWrite_idle {s : State} (h : s.busy = false) (off : Offset) (v : Word) :
    memWrite off v s = match regAt off with
      | some r => writeReg r v s
      | none => s := by
  unfold memWrite
  rw [h]
  rfl

/-- What a write can do: it is dropped, it starts a command, or it leaves BUSY and PENDING as they are. -/
theorem memWrite_cases (off : Offset) (v : Word) (s : State) :
    (s.busy = true ∧ memWrite off v s = markDropped s) ∨
    (s.busy = false ∧ memWrite off v s = startCommand v s) ∨
    (s.busy = false ∧ (memWrite off v s).busy = false ∧ (memWrite off v s).pending = s.pending ∧
      (memWrite off v s).drop = s.drop) := by
  cases hb : s.busy with
  | true => exact .inl ⟨rfl, memWrite_busy hb off v⟩
  | false =>
    refine .inr ?_
    rw [memWrite_idle hb]
    cases hr : regAt off with
    | none => exact .inr ⟨rfl, hb, rfl, rfl⟩
    | some r =>
      cases r
      case cmd => exact .inl ⟨rfl, rfl⟩
      all_goals exact .inr ⟨rfl, hb, rfl, rfl⟩

/-- The register at an offset does not depend on bits [1:0] of it (R62). -/
theorem regAt_aligned (off : Offset) : regAt (alignedOffset off) = regAt off := by
  have h : alignedOffset (alignedOffset off) = alignedOffset off := by
    simp [alignedOffset, BitVec.and_assoc]
  simp [regAt, h]

/-- Every register is found at its own offset (R61). -/
theorem regAt_offsetOf (r : Reg) : regAt (offsetOf r) = some r := by
  cases r with
  | seed i => revert i; decide
  | ksw i => revert i; decide
  | _ => rfl

/-! ### The port -/

/-- What an access can do: a read is answered, a write is done, a narrow access is refused (R62, R65, R66). -/
theorem serveAccess_cases (a : Access) (s : State) :
    (∃ off, a = .read .word off ∧ serveAccess a s = .next (recordReply (memRead off s) s)) ∨
    (∃ off v, a = .write .word off v ∧ serveAccess a s = .next (memWrite off v s)) ∨
    serveAccess a s = .refused .narrowAccess := by
  rcases a with ⟨w, off⟩ | ⟨w, off, v⟩ <;> cases w <;> simp [serveAccess]

/-- A cycle with reset held gives the reset values, or refuses a narrow access made in it (R62, R250). -/
theorem serveSlot_resetHeld_cases (a : Option Access) (s : State) :
    serveSlot (.resetHeld a) s = .next (resetCore s) ∨
    ∃ b, a = some b ∧ isNarrow b = true ∧ serveSlot (.resetHeld a) s = .refused .narrowAccess := by
  cases a with
  | none => exact .inl rfl
  | some b => cases hb : isNarrow b <;> simp [serveSlot, hb]

/-- What the port can do where it answers a next state: nothing (no slot, or an idle one), a read, a write, a reset. -/
theorem servePort_cases {s t : State} (h : servePort s = .next t) :
    (s.inbox = [] ∧ t = s) ∨
    ∃ slot rest, s.inbox = slot :: rest ∧
      ((slot = .idle ∧ t = { s with inbox := rest }) ∨
        (∃ off, slot = .access (.read .word off) ∧
          t = recordReply (memRead off { s with inbox := rest }) { s with inbox := rest }) ∨
        (∃ off v, slot = .access (.write .word off v) ∧ t = memWrite off v { s with inbox := rest }) ∨
        (∃ a, slot = .resetHeld a ∧ t = resetCore { s with inbox := rest })) := by
  unfold servePort at h
  split at h
  · next hi => cases h; exact .inl ⟨hi, rfl⟩
  · next slot rest hi =>
    refine .inr ⟨slot, rest, hi, ?_⟩
    cases slot with
    | idle => cases h; exact .inl ⟨rfl, rfl⟩
    | resetHeld a =>
      rcases serveSlot_resetHeld_cases a { s with inbox := rest } with hs | ⟨_, _, _, hs⟩
      · rw [hs] at h; cases h; exact .inr (.inr (.inr ⟨a, rfl, rfl⟩))
      · rw [hs] at h; cases h
    | access a =>
      rcases serveAccess_cases a { s with inbox := rest } with ⟨off, ha, hs⟩ | ⟨off, v, ha, hs⟩ | hs
      · simp only [serveSlot, hs] at h
        cases h; exact .inr (.inl ⟨off, by rw [ha], rfl⟩)
      · simp only [serveSlot, hs] at h
        cases h; exact .inr (.inr (.inl ⟨off, v, by rw [ha], rfl⟩))
      · simp [serveSlot, hs] at h

/-! ### The step -/

/-- A step is the commit of the word that is due, or else one core cycle of countdown and port (R69, R255). -/
theorem step_cases (s : State) :
    (∃ v, s.pending = some ⟨v, 0⟩ ∧ step s = commitWord v s) ∨
    ((∀ v, s.pending ≠ some ⟨v, 0⟩) ∧ step s = servePort (countDown s)) := by
  unfold step sequencerStep
  split
  · next v h => exact .inl ⟨v, h, rfl⟩
  · next v n h => exact .inr ⟨by simp [h], rfl⟩
  · next h => exact .inr ⟨by simp [h], rfl⟩

/-- The countdown touches PENDING alone (R200). -/
theorem countDown_eq (s : State) : countDown s = { s with pending := (countDown s).pending } := by
  unfold countDown; split <;> rfl

/-- The countdown does not look at the port's slots. -/
theorem countDown_inbox (s : State) (slots : List Slot) :
    countDown { s with inbox := slots } = { countDown s with inbox := slots } := by
  unfold countDown
  rcases h : s.pending with _ | ⟨v, _ | n⟩ <;> simp [h]

/-- A command with a cycle to go has one less after the countdown (R200). -/
theorem countDown_pending {s : State} {v : Word} {n : Nat} (h : s.pending = some ⟨v, n + 1⟩) :
    countDown s = { s with pending := some ⟨v, n⟩ } := by
  simp [countDown, h]

/-- Without a pending command the countdown does nothing. -/
theorem countDown_none {s : State} (h : s.pending = none) : countDown s = s := by
  simp [countDown, h]

/-- A word commits as its command, or as IllegalCommand (R200). -/
theorem commitWord_cases (v : Word) (s : State) :
    (∃ i, decode v = .ok i ∧ commitWord v s = exec i s) ∨
    ((∀ i, decode v ≠ .ok i) ∧ commitWord v s = .next (finish .illegalCommand s)) := by
  unfold commitWord
  split
  · next i h => exact .inl ⟨i, h, rfl⟩
  · next e h => exact .inr ⟨by simp [h], rfl⟩

/-- The check for round keys: NoKey, or the rest of the command (R216). -/
theorem withKey_cases (s : State) (o : Host.Outcome State Fault Refusal) :
    (s.stream = .noKey ∧ withKey s o = .next (finish .noKey s)) ∨ (Keyed s ∧ withKey s o = o) := by
  by_cases h : s.stream = .noKey
  · exact .inl ⟨h, by simp [withKey, h, raiseError]⟩
  · exact .inr ⟨h, by simp [withKey, h]⟩

/-- A latency is at least one core cycle (R9, R254). -/
theorem latency_pos (v : Word) (s : State) : 1 ≤ latency v s := by
  simp [latency]

/-! ### The loop of the key schedule -/

/-- A turn of the loop adds one word (R107). -/
theorem scheduleLoop_length (n : Nat) (known : List Word) :
    (scheduleLoop n known).length = known.length + n := by
  induction n generalizing known with
  | zero => rfl
  | succ m ih => simp [scheduleLoop, ih]; omega

/-- The loop keeps the words it has (R107). -/
theorem scheduleLoop_getD (n : Nat) (known : List Word) {i : Nat} (hi : i < known.length) :
    (scheduleLoop n known).getD i 0 = known.getD i 0 := by
  induction n generalizing known with
  | zero => rfl
  | succ m ih =>
    rw [scheduleLoop, ih _ (by simp; omega)]
    simp [List.getD, List.getElem?_append_left hi]

end Sys2Proof.Machine
end

