-- ==== Sys2Proof/Laws/Host.lean ====
section
/-! SUPPORT. What a step of host and core can do, and that a write made without polling may be accepted as well as dropped
(R257). -/

namespace Sys2Proof.Machine

/-- An operation leaves the core, the turns to come and the count of lost accesses alone: its bus access does the rest. -/
@[simp] theorem hostEffect_core (op : HostOp) (x : Word) (h : HostState) : (hostEffect op x h).core = h.core := by
  cases op <;> rfl
@[simp] theorem hostEffect_turns (op : HostOp) (x : Word) (h : HostState) : (hostEffect op x h).turns = h.turns := by
  cases op <;> rfl
@[simp] theorem hostEffect_lost (op : HostOp) (x : Word) (h : HostState) : (hostEffect op x h).lost = h.lost := by
  cases op <;> rfl

/-- Each read of the program, and nothing else, adds the value it returned to the observable result (R263). -/
theorem hostEffect_reads (op : HostOp) (x : Word) (h : HostState) :
    ((∃ r n, op = .rd r n) ∧ (hostEffect op x h).reads = h.reads ++ [x]) ∨
    ((∀ r n, op ≠ .rd r n) ∧ (hostEffect op x h).reads = h.reads) := by
  cases op with
  | rd r n => exact .inl ⟨⟨r, n, rfl⟩, rfl⟩
  | _ => exact .inr ⟨fun _ _ e => by (cases e), rfl⟩

/-- A run whose first step answers a next state goes on from it. -/
theorem hostRun_succ {h k : HostState} (e : hostStep h = .next k) (n : Nat) : hostRun (n + 1) h = hostRun n k := by
  simp only [hostRun, e]

/-- A run of `m` steps and then `n`. -/
theorem hostRun_add {h k : HostState} {m : Nat} (e : hostRun m h = .next k) (n : Nat) :
    hostRun (m + n) h = hostRun n k := by
  induction m generalizing h with
  | zero => cases e; rw [Nat.zero_add]
  | succ m ih =>
    rw [show m + 1 + n = (m + n) + 1 by omega]
    simp only [hostRun] at e ⊢
    split at e
    · exact ih e
    · cases e
    · cases e

/-- A commit is due exactly where PENDING has no cycle left. -/
theorem commitDue_iff (s : State) : commitDue s = true ↔ ∃ v, s.pending = some ⟨v, 0⟩ := by
  unfold commitDue; split <;> simp_all

/-- An operation with a bus access is the next access, and no host-side operation. -/
theorem nextAccess_bus {h : HostState} {op : HostOp} {a : Access} (ho : h.program[h.pc]? = some op)
    (ha : busAccess h.names op = some a) : nextAccess h = some (op, a) ∧ localOp h = none := by
  simp [nextAccess, localOp, ho, ha]

/-- Where the next operation is host-side, or there is none, no access is next. -/
theorem nextAccess_local {h : HostState} : (∃ op, localOp h = some op) ∨ h.program.length ≤ h.pc → nextAccess h = none := by
  unfold nextAccess localOp
  rintro (⟨op, ho⟩ | ho)
  · split at ho
    · split at ho
      · next hb => simp [hb]
      · cases ho
    · cases ho
  · simp [List.getElem?_eq_none ho]

/-- A commit that is due comes first. -/
theorem hostStep_due {h : HostState} {v : Word} (hp : h.core.pending = some ⟨v, 0⟩) :
    hostStep h = withCore (commitWord v h.core) fun c => { h with core := c } := by
  have hd : commitDue h.core = true := (commitDue_iff _).2 ⟨v, hp⟩
  rw [hostStep, if_pos (.inl hd)]
  simp [step, sequencerStep, hp]

/-- With no commit due and nothing else at the port, the next turn is taken: a host-side operation is done, or a core cycle
passes as the turn says. -/
theorem hostStep_turn {h : HostState} (hp : ∀ v, h.core.pending ≠ some ⟨v, 0⟩) (hi : h.core.inbox = []) :
    (∃ op, h.turns.headD .waits = .proceeds ∧ localOp h = some op ∧
      hostStep h = .next (hostEffect op 0 { h with turns := h.turns.tail })) ∨
    ((h.turns.headD .waits = .proceeds → localOp h = none) ∧
      hostStep h = withCore (servePort { countDown h.core with
          inbox := [turnSlot (h.turns.headD .waits) ((nextAccess h).map Prod.snd)] })
        (afterCycle (h.turns.headD .waits) (nextAccess h) h)) := by
  have hd : ¬ (commitDue h.core = true ∨ h.core.inbox ≠ []) := by
    rw [commitDue_iff]; rintro (⟨v, hv⟩ | hn)
    · exact hp v hv
    · exact hn hi
  have hc : hostCycle (h.turns.headD .waits) h = withCore (servePort { countDown h.core with
      inbox := [turnSlot (h.turns.headD .waits) ((nextAccess h).map Prod.snd)] })
      (afterCycle (h.turns.headD .waits) (nextAccess h) h) := by
    unfold hostCycle
    rcases step_cases { h.core with inbox := [turnSlot (h.turns.headD .waits) ((nextAccess h).map Prod.snd)] } with
      ⟨v, hv, _⟩ | ⟨_, hs⟩
    · exact absurd hv (hp v)
    · simp only [hs, countDown_inbox]
  rw [hostStep, if_neg hd, ← hc]
  cases ht : h.turns.headD .waits <;> cases hl : localOp h <;> simp

/-- A commit always goes on: it ends the command and leaves the port's slots as they are. -/
theorem commitWord_next (v : Word) (s : State) :
    ∃ t, commitWord v s = .next t ∧ t.busy = false ∧ t.pending = none ∧ t.inbox = s.inbox := by
  rcases commitWord_cases v s with ⟨i, _, h⟩ | ⟨_, h⟩
  · rw [h]
    cases i <;> simp only [exec, execNop, execClear, execExpand, execCtrrst, execWtrans, execSubw, execRotw, execRound,
      execEncrypt, execPerm, execSubb, execKmix, execKsblk, execXstart, execXblock, withKey, commitOk, raiseError]
    all_goals (repeat' split)
    all_goals exact ⟨_, rfl, rfl, rfl, by simp⟩
  · exact ⟨_, h, rfl, rfl, rfl⟩

/-- While the host waits, a pending command comes `n` cycles nearer to its commit, whatever the program's next operation. -/
theorem hostRun_waits {w : Word} {rest : List HostTurn} (n m : Nat) (h : HostState) (hi : h.core.inbox = [])
    (hp : h.core.pending = some ⟨w, n + m⟩) (hc : h.turns = List.replicate n .waits ++ rest) :
    hostRun n h = .next { h with core := { h.core with pending := some ⟨w, m⟩ }, turns := rest } := by
  induction n generalizing h with
  | zero =>
    obtain ⟨_, _, _, core, turns, _, _⟩ := h
    simp only [Nat.zero_add] at hp
    simp only [List.replicate_zero, List.nil_append] at hc
    cases hc
    simp only [hostRun]
    rw [← hp]
  | succ n ih =>
    have hd : h.turns.headD .waits = .waits := by rw [hc]; rfl
    have e : hostStep h = .next { h with
        core := { h.core with pending := some ⟨w, n + m⟩ }
        turns := List.replicate n .waits ++ rest } := by
      rcases hostStep_turn (h := h) (by rw [hp]; intro v hv; injection hv with hv; injection hv; omega) hi with
        ⟨_, ht, _⟩ | ⟨_, hs⟩
      · rw [hd] at ht; cases ht
      · rw [hs, hd, countDown_pending (n := n + m) (by rw [hp]; congr 2; omega)]
        simp [List.replicate_succ, turnSlot, servePort, serveSlot, withCore, afterCycle, hi, hc]
    rw [hostRun_succ e]
    exact ih { h with
      core := { h.core with pending := some ⟨w, n + m⟩ }
      turns := List.replicate n .waits ++ rest } hi rfl rfl

/-- With no commit due, a write that the host presents is served, and the program goes on (R66, R86). -/
theorem hostStep_write {h : HostState} {op : HostOp} {off : Offset} {x : Word}
    {rest : List HostTurn} (ho : h.program[h.pc]? = some op) (hop : (∃ r v, op = .wr r v) ∨ ∃ i, op = .cmd i)
    (ha : busAccess h.names op = some (.write .word off x)) (hp : ∀ v, h.core.pending ≠ some ⟨v, 0⟩)
    (hi : h.core.inbox = []) (hc : h.turns = .proceeds :: rest) :
    hostStep h = .next { h with pc := h.pc + 1, core := memWrite off x (countDown h.core), turns := rest } := by
  obtain ⟨hn, hl⟩ := nextAccess_bus ho ha
  have hx : { countDown h.core with inbox := [] } = countDown h.core := by
    rw [countDown_eq, hi.symm]
  rcases hostStep_turn hp hi with ⟨op', _, hl', _⟩ | ⟨_, hs⟩
  · rw [hl] at hl'; cases hl'
  · rw [hs, hn, hc]
    rcases hop with ⟨r, v, rfl⟩ | ⟨i, rfl⟩ <;>
      simp [turnSlot, servePort, serveSlot, serveAccess, withCore, afterCycle, hostEffect, hc, hx]

/-- The host's command, written while the core is idle, is accepted, and after its latency, which the host waits, it has
committed, whatever the program does next: `c` is the core that the commit leaves. -/
theorem hostRun_command {h : HostState} {i : Instr} (hi : h.program[h.pc]? = some (.cmd i)) (hb : h.core.busy = false)
    (hp : h.core.pending = none) (hn : h.core.inbox = []) :
    ∃ n c, c.busy = false ∧ c.pending = none ∧ c.inbox = [] ∧ ∀ rest,
      hostRun (n + 2) { h with turns := .proceeds :: (List.replicate n .waits ++ rest) } =
        .next { h with pc := h.pc + 1, core := c, turns := rest } := by
  obtain ⟨l, hl⟩ : ∃ l, latency (encode i) h.core = l + 1 := ⟨_, rfl⟩
  have hpend : (startCommand (encode i) h.core).pending = some ⟨encode i, l + 1⟩ := by rw [← hl]; rfl
  let c0 : State := { startCommand (encode i) h.core with pending := some ⟨encode i, 0⟩ }
  obtain ⟨c, hc, cb, cp, ci⟩ := commitWord_next (encode i) c0
  refine ⟨l + 1, c, cb, cp, ci.trans hn, fun rest => ?_⟩
  have first : hostStep { h with turns := .proceeds :: (List.replicate (l + 1) .waits ++ rest) } = .next { h with
      pc := h.pc + 1
      core := startCommand (encode i) h.core
      turns := List.replicate (l + 1) .waits ++ rest } := by
    rw [hostStep_write (h := { h with turns := .proceeds :: (List.replicate (l + 1) .waits ++ rest) }) hi
      (.inr ⟨i, rfl⟩) rfl (by simp [hp]) hn rfl, countDown_none hp, memWrite_idle hb]
    rfl
  have waits := hostRun_waits (rest := rest) (l + 1) 0
    { h with
      pc := h.pc + 1
      core := startCommand (encode i) h.core
      turns := List.replicate (l + 1) .waits ++ rest } hn hpend rfl
  have commit : hostStep { h with pc := h.pc + 1, core := c0, turns := rest } =
      .next { h with pc := h.pc + 1, core := c, turns := rest } := by
    rw [hostStep_due rfl, hc]; rfl
  exact (hostRun_succ first (l + 1 + 1)).trans <| (hostRun_add waits 1).trans <| hostRun_succ commit 0

/-- R257: a write right after a command, by a host that does not poll, may be dropped, and may be accepted: each happens
for some list of turns, whatever the command, its latency, the register and the value. -/
theorem unpolled_write_both_ways {h : HostState} {i : Instr} {r : Reg} {x : HostVal}
    (hi : h.program[h.pc]? = some (.cmd i)) (hw : h.program[h.pc + 1]? = some (.wr r x))
    (hb : h.core.busy = false) (hp : h.core.pending = none) (hn : h.core.inbox = []) :
    (∃ k, hostRun 2 { h with turns := [.proceeds, .proceeds] } = .next k ∧ k.pc = h.pc + 2 ∧ k.core.drop = true) ∧
    ∃ n k t, hostRun (n + 3) { h with turns := .proceeds :: (List.replicate n .waits ++ [.proceeds]) } = .next k ∧
      k.pc = h.pc + 2 ∧ t.busy = false ∧ k.core = memWrite (offsetOf r) (hostValue h.names x) t := by
  constructor
  · have first : hostStep { h with turns := [.proceeds, .proceeds] } =
        .next { h with pc := h.pc + 1, core := startCommand (encode i) h.core, turns := [.proceeds] } := by
      rw [hostStep_write (h := { h with turns := [.proceeds, .proceeds] }) hi (.inr ⟨i, rfl⟩) rfl (by simp [hp]) hn rfl,
        countDown_none hp, memWrite_idle hb]
      rfl
    obtain ⟨l, hl⟩ : ∃ l, latency (encode i) h.core = l + 1 := ⟨_, rfl⟩
    have hpend : (startCommand (encode i) h.core).pending = some ⟨encode i, l + 1⟩ := by rw [← hl]; rfl
    have second := hostStep_write
      (h := { h with pc := h.pc + 1, core := startCommand (encode i) h.core, turns := [.proceeds] })
      hw (.inl ⟨r, x, rfl⟩) rfl (by simp [hl]) hn rfl
    refine ⟨_, (hostRun_succ first 1).trans (hostRun_succ second 0), rfl, ?_⟩
    show (memWrite _ _ (countDown _)).drop = true
    rw [countDown_pending hpend, memWrite_busy rfl]
    rfl
  · obtain ⟨n, c, cb, cp, ci, run⟩ := hostRun_command hi hb hp hn
    have last := hostStep_write (h := { h with pc := h.pc + 1, core := c, turns := [.proceeds] })
      hw (.inl ⟨r, x, rfl⟩) rfl (by simp [cp]) ci rfl
    refine ⟨n, _, c, (hostRun_add (run [.proceeds]) 1).trans (hostRun_succ last 0), rfl, cb, ?_⟩
    show memWrite _ _ (countDown c) = _
    rw [countDown_none cp]

/-! ### The end of a program (R263) -/

/-- Past its last operation a program makes no access. -/
theorem accessesDone_past_end {h : HostState} (he : h.program.length ≤ h.pc) : accessesDone h := by
  have hl : localOp h = none := by simp [localOp, List.getElem?_eq_none he]
  intro n
  have : localRun n h = h := by cases n <;> simp [localRun, hl]
  rw [this]
  exact nextAccess_local (.inr he)

/-- A host-side operation that leaves the host as it is, a branch to itself, is the last thing a program does. -/
theorem accessesDone_loop {h : HostState} {op : HostOp} (hl : localOp h = some op) (hs : hostEffect op 0 h = h) :
    accessesDone h := by
  intro n
  have : localRun n h = h := by
    induction n with
    | zero => rfl
    | succ m ih => simp only [localRun, hl, hs, ih]
  rw [this]
  exact nextAccess_local (.inl ⟨op, hl⟩)

/-- A program that issues a command and then branches to itself for ever ends, by R263: the core goes on to the commit. -/
theorem command_then_loop_ends {h : HostState} {i : Instr} {v : Nat} (hi : h.program[h.pc]? = some (.cmd i))
    (hz : h.program[h.pc + 1]? = some (.bz v 0 (h.pc + 1))) (hb : h.core.busy = false) (hp : h.core.pending = none)
    (hn : h.core.inbox = []) :
    ∃ n k, hostRun (n + 2) { h with turns := .proceeds :: List.replicate n .waits } = .next k ∧ hostEnded k := by
  obtain ⟨n, c, cb, _, _, run⟩ := hostRun_command hi hb hp hn
  have e := run []
  rw [List.append_nil] at e
  exact ⟨n, _, e, accessesDone_loop (op := .bz v 0 (h.pc + 1)) (by simp [localOp, hz, busAccess])
    (by simp [hostEffect]), cb⟩

end Sys2Proof.Machine
end

