-- ==== Sys2Proof/Laws/Run.lean ====
section
/-! SUPPORT. Runs of several steps (Host.Core.run), unfolded one step at a time. -/

namespace Sys2Proof.Machine

/-- A run of no steps stays where it is. -/
@[simp] theorem run_zero (s : State) : Host.Core.run Sys2Proof.core 0 s = Host.Outcome.next s := rfl

/-- A run whose first step answers a next state goes on from it. -/
theorem run_succ {s t : State} (h : step s = .next t) (n : Nat) :
    Host.Core.run Sys2Proof.core (n + 1) s = Host.Core.run Sys2Proof.core n t := by
  have e : Sys2Proof.core.step s = Host.Outcome.next t := h
  simp only [Host.Core.run, e]

end Sys2Proof.Machine
end

