-- ==== Sys2Proof/Laws/Window.lean ====
section
/-! SUPPORT. The register window: offsets as numbers, registers by their row, and the halves of the 64-bit pairs. -/

namespace Sys2Proof.Machine

/-- `off & 0xFFC` as a number (R62). -/
theorem alignedOffset_toNat (off : Offset) : (alignedOffset off).toNat = off.toNat / 4 * 4 := by
  have h : off &&& (0xFFC : Offset) = (off >>> 2) <<< 2 := by
    apply BitVec.eq_of_getLsbD_eq
    intro i hi
    interval_cases i <;> simp
  unfold alignedOffset
  rw [h]
  simp [Nat.shiftRight_eq_div_pow, Nat.shiftLeft_eq]
  have := off.isLt
  omega

/-- The register in row `k` of the window, `k` being the offset divided by 4 (R61). -/
def regAtRow (k : Nat) : Option Reg :=
  match k with
  | 0x00 => some .cmd
  | 0x01 => some .status
  | 0x02 => some .ctr
  | 0x03 => some .xrem
  | 0x04 => some .length
  | 0x08 => some (.seed 0)
  | 0x09 => some (.seed 1)
  | 0x0A => some (.seed 2)
  | 0x0B => some (.seed 3)
  | 0x0C => some .iv0
  | 0x0D => some .iv1
  | 0x0E => some .ivl0
  | 0x0F => some .ivl1
  | 0x10 => some .win
  | 0x11 => some .wout
  | 0x14 => some .bin0
  | 0x15 => some .bin1
  | 0x16 => some .bout0
  | 0x17 => some .bout1
  | k => if h : 0x40 ≤ k ∧ k < 0x58 then some (.ksw ⟨k - 0x40, by omega⟩) else none

/-- An offset reaches the register of its row, whatever its bits [1:0] (R61, R62). -/
theorem regAt_eq_regAtRow (off : Offset) : regAt off = regAtRow (off.toNat / 4) := by
  have hb : off.toNat / 4 < 1024 := by have := off.isLt; omega
  unfold regAt
  rw [alignedOffset_toNat]
  revert hb
  generalize off.toNat / 4 = k
  revert k
  decide +kernel

/-- A read at a register's own offset reads that register. -/
@[simp] theorem memRead_offsetOf (r : Reg) (s : State) : memRead (offsetOf r) s = readReg r s := by
  simp [memRead, regAt_offsetOf]

/-- XACTIVE is 1 exactly when XREM is not zero (R26). -/
theorem xactive_eq (s : State) : xactive s = decide (s.xrem ≠ 0) := by
  unfold xactive
  by_cases h : s.xrem = 0
  · rw [h]; rfl
  · rw [decide_eq_true h]; exact bne_iff_ne.mpr h

/-- The first word of a pair (R38). -/
@[simp] theorem highWord_append (a b : Word) : highWord (a ++ b) = a := by
  unfold highWord
  ext i hi
  simp only [BitVec.getElem_extractLsb', BitVec.getLsbD_append]
  grind

/-- The second word of a pair (R38). -/
@[simp] theorem lowWord_append (a b : Word) : lowWord (a ++ b) = b := by
  unfold lowWord
  ext i hi
  simp only [BitVec.getElem_extractLsb', BitVec.getLsbD_append]
  grind

end Sys2Proof.Machine
end

