-- ==== Sys2Proof/Tests/Slice0.lean ====
section
/-! SUPPORT. Tests of one step or one word each, with expected values from `95_test_vectors.md` or written out from a rule,
and, for each statement with hypotheses, a state and operands that meet them. -/

namespace Sys2Proof.Tests

open Sys2Proof Sys2Proof.Machine Host

-- The tests are elaborated one after another: each one that the kernel evaluates would else hold a thread of its own.
set_option Elab.async false

/-- The next state of an outcome, or none. -/
def result (o : Host.Outcome State Fault Refusal) : Option State :=
  match o with
  | .next t => some t
  | .fault _ | .refused _ => none

/-- The name of a refusal, or none. -/
def refusal (o : Host.Outcome State Fault Refusal) : Option Refusal :=
  match o with
  | .refused r => some r
  | .fault _ | .next _ => none

/-- What the decoder makes of a word. -/
def decoded (v : Word) : Option Instr := (decode v).toOption

/-- KS-1: the key schedule file of the zero seed. -/
def zeroSeedFile : Vector Word 24 :=
  #v[0x00000000, 0x00000000, 0x00000000, 0x00000000, 0x9C636363, 0x9C636363, 0x9C636363, 0x9C636363,
    0x989898BD, 0x04FBFBDE, 0x989898BD, 0x04FBFBDE, 0x6897854F, 0x6C6C7E91, 0xF4F4E62C, 0xF00F1DF2,
    0xE1330CC3, 0x8D5F7252, 0x79AB947E, 0x89A4898C, 0x57946864, 0xDACB1A36, 0xA3608E48, 0x2AC407C4]

/-- The core after EXPAND 16 with the zero seed and the zero IV. -/
def keyed : State := { State.reset with ksw := zeroSeedFile, stream := .init }

/-- `keyed` with a session of `n` bytes open. -/
def session (n : Word) : State := { keyed with xrem := n }

/-- `keyed` with its stream at the counter `c`. -/
def streamAt (c : Half) : State := { keyed with ctr := c, stream := .streaming }

/-- `keyed` with its stream exhausted. -/
def exhausted : State := { keyed with ctr := 0xFFFF, stream := .exhausted }

/-- `s` with the commit of the word `v` due. -/
def due (v : Word) (s : State) : State := { s with busy := true, pending := some ⟨v, 0⟩ }

/-- A busy core: ENCRYPT pending with `n` cycles to go, and `slots` at the port. -/
def busyWith (n : Nat) (slots : List Slot) : State :=
  { keyed with busy := true, pending := some ⟨0x00000031, n⟩, inbox := slots }

/-- A core whose port is about to serve the slots `slots`. -/
def atPort (slots : List Slot) : State := { keyed with inbox := slots }

/-! ### Well-formedness and encoding -/

theorem test_round_twelve_is_ill_formed : (Instr.round 12).wf = false ∧ (Instr.round 11).wf = true := by decide
theorem test_kmix_twelve_is_ill_formed : (Instr.kmix 12).wf = false ∧ (Instr.kmix 11).wf = true := by decide

theorem test_decode_nop : decoded 0b00000000_00000000_00000000_00000000 = some .nop := by decide
theorem test_decode_clear : decoded 0b00000000_00000000_00000000_00000001 = some .clear := by decide
theorem test_decode_expand : decoded 0b00000000_00000000_00010000_00010000 = some (.expand 16) := by decide
theorem test_decode_expand_any_length :
    decoded 0b00000000_00000000_00001111_00010000 = some (.expand 15) ∧
      decoded 0b00000000_00000000_11111111_00010000 = some (.expand 255) := by decide
theorem test_decode_ctrrst : decoded 0b00000000_00000000_00000000_00010001 = some .ctrrst := by decide
theorem test_decode_wtrans : decoded 0b00000000_00000000_00000000_00100000 = some .wtrans := by decide
theorem test_decode_subw : decoded 0b00000000_00000000_00000000_00100001 = some .subw := by decide
theorem test_decode_rotw : decoded 0b00000000_00000000_00000000_00100010 = some .rotw := by decide
theorem test_decode_round : decoded 0b00000000_00000000_00001011_00110000 = some (.round 11) := by decide
theorem test_decode_encrypt : decoded 0b00000000_00000000_00000000_00110001 = some .encrypt := by decide
theorem test_decode_perm : decoded 0b00000000_00000000_00000000_00110010 = some .perm := by decide
theorem test_decode_subb : decoded 0b00000000_00000000_00000000_00110011 = some .subb := by decide
theorem test_decode_kmix : decoded 0b00000000_00000000_00000101_00110100 = some (.kmix 5) := by decide
theorem test_decode_ksblk : decoded 0b00000000_00000000_00000000_01000000 = some .ksblk := by decide
theorem test_decode_xstart : decoded 0b00000000_00000000_00000000_01000001 = some .xstart := by decide
theorem test_decode_xblock : decoded 0b00000000_00000000_00000000_01000010 = some .xblock := by decide

theorem test_table_word_decodes : decodeTableWord 32 0x00000534 = some (.kmix 5) := by decide
theorem test_table_word_runs :
    (result (step (State.reset.withFetchWord 32 0x00000F10))).map State.err = some 1 := by decide

/-! ### The word commands, W-2 and W-4 -/

theorem test_rotw : result (exec .rotw { State.reset with win := 0x01020304 }) =
    some { State.reset with win := 0x01020304, wout := 0x02030401 } := by decide
theorem test_subw : result (exec .subw { State.reset with win := 0x12345678 }) =
    some { State.reset with win := 0x12345678, wout := 0xC918B1BC } := by decide
theorem test_wtrans : result (exec .wtrans { State.reset with win := 0x12345678 }) =
    some { State.reset with win := 0x12345678, wout := 0xE7B1BCC9 } := by decide +kernel

/-! ### The key schedule, KS-1 to KS-4 -/

theorem test_expand_zero_seed : result (exec (.expand 16) State.reset) = some keyed := by decide +kernel
theorem test_expand_incrementing_seed :
    keySchedule #v[0x00010203, 0x04050607, 0x08090A0B, 0x0C0D0E0F] =
      #v[0x00010203, 0x04050607, 0x08090A0B, 0x0C0D0E0F, 0x28AA74FD, 0x2CAF72FA, 0x24A678F1, 0x28AB76FE,
        0xB592CFC9, 0x993DBD33, 0xBD9BC5C2, 0x9530B33C, 0x4EFF24E3, 0xD7C299D0, 0x6A595C12, 0xFF69EF2E,
        0x482015F5, 0x9FE28C25, 0xF5BBD037, 0x0AD23F19, 0x0255C192, 0x9DB74DB7, 0x680C9D80, 0x62DEA299] := by
  decide +kernel

/-! ### The round engine, PB-2, PB-4, BC-1 -/

theorem test_perm : result (exec .perm { State.reset with bin := 0x0001020304050607 }) =
    some { State.reset with bin := 0x0001020304050607, bout := 0x0500020701060403 } := by decide +kernel
theorem test_subb : result (exec .subb { State.reset with bin := 0x1122334455667788 }) =
    some { State.reset with bin := 0x1122334455667788, bout := 0x8293C31BFC33F5C4 } := by decide +kernel
theorem test_kmix_five : result (exec (.kmix 5) { keyed with bin := 0x0001020304050607 }) =
    some { keyed with bin := 0x0001020304050607, bout := 0x98999ABE00FEFDD9 } := by decide +kernel
theorem test_round_eleven : result (exec (.round 11) { keyed with bin := 0x0001020304050607 }) =
    some { keyed with bin := 0x0001020304050607, bout := 0xC803F98D56ABF5BF } := by decide +kernel
theorem test_encrypt_zero : result (exec .encrypt keyed) = some { keyed with bout := 0x067E6C37AA042F6F } := by
  decide +kernel
theorem test_encrypt_incrementing : result (exec .encrypt { keyed with bin := 0x0001020304050607 }) =
    some { keyed with bin := 0x0001020304050607, bout := 0x81724498AAB98BC5 } := by decide +kernel

/-! ### The counter mode, CM-2, CM-3, CM-5 to CM-8 -/

theorem test_ksblk_first : result (exec .ksblk keyed) =
    some { keyed with bout := 0x067E6C37AA042F6F, ctr := 1, stream := .streaming } := by decide +kernel
theorem test_ksblk_last : result (exec .ksblk (streamAt 0xFFFF)) =
    some { exhausted with bout := 0x5D7E6C37AA042F1B } := by decide +kernel
theorem test_ctrrst_closes_the_session :
    result (exec .ctrrst { streamAt 1 with xrem := 8, iv0 := 0xA0A1A2A3, iv1H := 0xA4A5 }) =
      some { keyed with iv0 := 0xA0A1A2A3, iv1H := 0xA4A5, ivl0 := 0xA0A1A2A3, ivl1H := 0xA4A5 } := by decide
theorem test_xstart_fresh :
    (result (exec .xstart { keyed with length := 524288 })).map statusWord = some 0x00A ∧
      (result (exec .xstart { keyed with length := 524289 })).map statusWord = some 0x302 := by decide
theorem test_xstart_at_one :
    (result (exec .xstart { streamAt 1 with length := 524280 })).map statusWord = some 0x00C ∧
      (result (exec .xstart { streamAt 1 with length := 524281 })).map statusWord = some 0x304 := by decide
theorem test_xblock_one_byte : result (exec .xblock { session 1 with bin := 0xFFFFFFFFFFFFFFFF }) =
    some { streamAt 1 with bin := 0xFFFFFFFFFFFFFFFF, bout := 0xF900000000000000 } := by decide +kernel
theorem test_xblock_partial_chunk :
    result (exec .xblock { streamAt 1 with xrem := 5, bin := 0x6F726C6421000000 }) =
      some { streamAt 2 with bin := 0x6F726C6421000000, bout := 0x690C00538B000000 } := by decide +kernel

/-! ### Control and errors, ER-2, ER-9, ER-12 -/

theorem test_nop_clears_err : result (exec .nop { keyed with err := 7 }) = some keyed := by decide
theorem test_clear_zeroes_the_key : result (exec .clear (session 9)) = some State.reset := by decide
theorem test_no_key_before_sequence :
    (result (step (due 0x00000042 State.reset))).map statusWord = some 0x500 := by decide
theorem test_illegal_before_no_key :
    (result (step (due 0x00000C34 State.reset))).map statusWord = some 0x600 := by decide
theorem test_sequence_error_in_session :
    (result (step (due 0x00000040 (session 9)))).map statusWord = some 0x70A := by decide

/-! ### The port -/

theorem test_read_ksw : memRead 0x15C keyed = 0x2AC407C4 ∧ memRead 0x160 keyed = 0 := by decide
theorem test_write_iv1_keeps_the_high_half :
    memRead 0x034 (memWrite 0x034 0xA4A5FFFF State.reset) = 0xA4A50000 := by decide
theorem test_write_while_busy_sets_drop :
    result (step (busyWith 2 [.access (.write .word 0x050 1)])) = some { busyWith 1 [] with drop := true } := by decide
theorem test_byte_access_is_refused :
    refusal (step { State.reset with inbox := [.access (.read .byte 4)] }) = some .narrowAccess := by decide
theorem test_byte_access_during_reset_is_refused :
    refusal (step { State.reset with inbox := [.resetHeld (some (.write .byte 4 1))] }) = some .narrowAccess := by decide
theorem test_host_add_wraps :
    (hostEffect (.add 0 2) 0 ⟨[], 0, [(0, 0xFFFFFFFF)], State.reset, [], 0, []⟩).names = [(0, 1)] := by decide
theorem test_host_poll_sees_busy :
    (match hostStep ⟨asmPoll 0 7, 0, [], busyWith 2 [], [.proceeds], 0, []⟩ with
      | .next k => some (nameValue k.names 7, k.pc, k.core)
      | .fault _ | .refused _ => none) = some (0x003, 1, { busyWith 1 [] with replies := [0x003] }) := by decide
theorem test_host_reset_comes_between :
    (match hostStep ⟨[.wr .win (.imm 1)], 0, [], session 9, [.reset false, .proceeds], 0, []⟩ with
      | .next k => some (k.pc, k.core, k.turns)
      | .fault _ | .refused _ => none) = some (0, State.reset, [.proceeds]) := by decide
theorem test_host_read_during_reset_is_observed :
    (match hostStep ⟨[.rd .win 0], 0, [], keyed, [.reset true], 0, []⟩ with
      | .next k => some ((observable k).2, k.core.replies)
      | .fault _ | .refused _ => none) = some ([Config.lostRead 0], []) := rfl
theorem test_host_reply_to_another_is_not_observed :
    (match hostStep ⟨[.rd .win 0], 0, [], atPort [.access (.read .word 0x100)], [], 0, []⟩ with
      | .next k => some ((observable k).2, k.core.replies)
      | .fault _ | .refused _ => none) = some ([], [0]) := rfl
theorem test_host_side_operation_takes_no_cycle :
    (match hostStep ⟨[.set 0 5], 0, [], busyWith 2 [], [.proceeds], 0, []⟩ with
      | .next k => some (k.names, k.pc, k.core)
      | .fault _ | .refused _ => none) = some ([(0, 5)], 1, busyWith 2 []) := by decide
theorem test_host_branch : (hostEffect (.bnz 0 1 7) 0 ⟨[], 0, [(0, 3)], State.reset, [], 0, []⟩).pc = 7 := by decide

/-! ### The hypotheses of the statements are met -/

theorem test_met_DecodeOfEncodeIsTheCommand : (Instr.expand 255).wf = true ∧ (Instr.kmix 11).wf = true := by decide

theorem test_met_EncodeOfDecodeIsTheWord : decode 0x00000B34 = .ok (.kmix 11) := rfl

theorem test_met_LegalWordsAreExactlyTheDecodedOnes :
    Legal 0x00000B30 ∧ ¬ Legal 0x00000C30 ∧ (15 : Byte) ≠ 16 ∧ (17 : Byte) ≠ 16 := by
  unfold Legal opcodes; decide

theorem test_met_StepRunsTheDecodedCommand :
    (due 0x00000B30 keyed).pending = some ⟨0x00000B30, 0⟩ ∧ decode 0x00000B30 = .ok (.round 11) := ⟨rfl, rfl⟩

theorem test_met_IllegalWordChangesErrOnly :
    (∀ v : Word, (due v keyed).pending = some ⟨v, 0⟩) ∧
    (0x00000043 : Word).toNat % 256 ∉ opcodes ∧ (0x00010000 : Word).toNat / 65536 ≠ 0 ∧
    ((0x00000100 : Word).toNat % 256 ∈ opcodes ∧ (0x00000100 : Word).toNat % 256 ∉ [0x10, 0x30, 0x34] ∧
      (0x00000100 : Word).toNat / 256 % 256 ≠ 0) ∧
    ((0x00000C34 : Word).toNat % 256 ∈ [0x30, 0x34] ∧ 12 ≤ (0x00000C34 : Word).toNat / 256 % 256) :=
  ⟨fun _ => rfl, by unfold opcodes; decide⟩

theorem test_met_AcceptedCommandBecomesPending :
    ∀ slots ∈ ([[], [.idle], [.access (.read .word 0xFFF)], [.access (.write .word 0x054 1)],
        [.access (.write .word 0x003 0x31)]] : List (List Slot)),
      (atPort slots).busy = false ∧ (atPort slots).pending = none ∧ (atPort slots).inbox = slots ∧
      (0x003 : Offset).toNat / 4 = 0 := by decide

theorem test_met_BusyWindowKeepsEveryRegister :
    ∀ slots ∈ ([[], [.idle], [.access (.write .word 0 0x31)], [.access (.read .word 4)]] : List (List Slot)),
      (busyWith 1 slots).busy = true ∧ (busyWith 1 slots).pending = some ⟨0x00000031, 0 + 1⟩ ∧
      (busyWith 1 slots).inbox = slots := by decide

theorem test_met_EveryPendingCommandComesToItsCommit :
    (busyWith 2 [.access (.read .word 4), .access (.write .word 0x50 1), .resetHeld none]).busy = true ∧
    (busyWith 2 [.access (.read .word 4), .access (.write .word 0x50 1), .resetHeld none]).pending =
      some ⟨0x00000031, 2⟩ ∧
    ∀ slot ∈ (busyWith 2 [.access (.read .word 4), .access (.write .word 0x50 1), .resetHeld none]).inbox.take 2,
      slot = .idle ∨ (∃ off, slot = .access (.read .word off)) ∨ (∃ off x, slot = .access (.write .word off x)) := by
  refine ⟨rfl, rfl, ?_⟩
  intro slot h
  simp only [busyWith, List.take, List.mem_cons, List.not_mem_nil, or_false] at h
  rcases h with rfl | rfl
  · exact .inr (.inl ⟨_, rfl⟩)
  · exact .inr (.inr ⟨_, _, rfl⟩)

theorem test_met_NarrowAccessIsRefused :
    (∀ v, keyed.pending ≠ some ⟨v, 0⟩) ∧
    ∀ a ∈ [Access.read .byte 3, .read .half 2, .write .byte 0xFFF 1, .write .half 0 1],
      (atPort [.access a]).inbox = .access a :: [] ∧
      (atPort [.resetHeld (some a)]).inbox = .resetHeld (some a) :: [] ∧
      (a = .read .byte 3 ∨ a = .read .half 2 ∨ a = .write .byte 0xFFF 1 ∨ a = .write .half 0 1) :=
  ⟨fun _ h => by (cases h), by decide⟩

/-- The four codes of STATE, which `StatusShowsItsFields` asks of a state each (CM-2, CM-6). -/
theorem test_met_StatusShowsItsFields :
    memRead 0x004 State.reset = 0x000 ∧ memRead 0x004 keyed = 0x002 ∧ memRead 0x004 (streamAt 1) = 0x004 ∧
      memRead 0x004 exhausted = 0x006 ∧ keyed.busy = false := by decide

/-- The offsets at both ends of each clause of `ReadReturnsTheAddressedRegister` and of
`WriteChangesTheAddressedRegisterOnly`, with their register numbers. -/
theorem test_met_window_clauses :
    ∀ e ∈ ([(0x000, 0x00), (0x003, 0x00), (0x004, 0x01), (0x007, 0x01), (0x008, 0x02), (0x00F, 0x03), (0x010, 0x04),
      (0x014, 0x05), (0x01F, 0x07), (0x020, 0x08), (0x02F, 0x0B), (0x030, 0x0C), (0x037, 0x0D), (0x038, 0x0E),
      (0x03F, 0x0F), (0x040, 0x10), (0x047, 0x11), (0x048, 0x12), (0x04F, 0x13), (0x050, 0x14), (0x057, 0x15),
      (0x058, 0x16), (0x05F, 0x17), (0x060, 0x18), (0x0FF, 0x3F), (0x100, 0x40), (0x15F, 0x40 + 23), (0x160, 0x58),
      (0xFFF, 0x3FF)] : List (Offset × Nat)), e.1.toNat / 4 = e.2 := by decide

theorem test_met_WriteChangesTheAddressedRegisterOnly : (busyWith 1 []).busy = true ∧ keyed.busy = false := by decide

theorem test_met_WriteIsSeenByLaterReads :
    keyed.busy = false ∧
    Reg.bin1 ∈ [Reg.length, .seed 0, .seed 1, .seed 2, .seed 3, .iv0, .win, .bin0, .bin1] ∧
    Reg.bin1 ≠ .cmd ∧ Reg.bin0 ≠ .bin1 := by decide

theorem test_met_WindowIsReachedWhereverBaseIs : windowBase + 4096 < windowBase ∨ windowBase + 4096 ≤ windowBase + 4096 :=
  .inr (Nat.le_refl _)

theorem test_met_ResetAndClearGiveTheListedValues :
    (∃ t a, serveSlot (.resetHeld a) (session 9) = .next t) ∧ ∃ t, exec .clear (session 9) = .next t :=
  ⟨⟨_, some (.read .word 4), rfl⟩, _, rfl⟩

theorem test_met_HeldResetAbandonsTheCommand :
    (busyWith 1 [.resetHeld (some (.read .word 4))]).inbox = .resetHeld (some (.read .word 4)) :: [] ∧
    (∀ v, (busyWith 1 [.resetHeld (some (.read .word 4))]).pending ≠ some ⟨v, 0⟩) ∧
    (busyWith 0 [.resetHeld none]).pending = some ⟨0x00000031, 0⟩ :=
  ⟨rfl, fun _ h => by (cases h), rfl⟩

theorem test_met_ErrorChangesNothingButErr :
    ∃ t, exec .xstart (session 9) = .next t ∧ t.err ≠ 0 := ⟨_, rfl, by decide⟩

theorem test_met_ShapeMismatchIsNeverRaised :
    keyed.err ∈ ([0, 1, 3, 4, 5, 6, 7] : List (BitVec 4)) ∧ ∃ t, step keyed = .next t := ⟨by decide, _, rfl⟩

theorem test_met_KeyedCommandsRaiseNoKeyBeforeExpand :
    State.reset.stream = .noKey ∧ (Instr.kmix 11).wf = true ∧ (Instr.round 0).wf = true ∧ Instr.xblock.wf = true ∧
      Instr.xblock ∈ [Instr.ctrrst, .encrypt, .ksblk, .xstart, .xblock] := by decide

theorem test_met_OutOfSequenceRequestsChangeErrOnly :
    Keyed (session 1) ∧ (session 1).xrem ≠ 0 ∧ Keyed keyed ∧ keyed.xrem = 0 := by unfold Keyed; decide

/-- `keyed` with the longest session open and an XBLOCK due. -/
def longSession : State := due 0x00000042 (session 524288)

theorem test_long_session_meets_the_invariants : Inv longSession where
  noKeyClear := by decide
  initCounter := by decide
  exhaustedCounter := by decide
  sessionFits := by unfold CanEmit; decide
  remainingBound := by decide
  errCodes := by decide
  busyPending := by decide
  scheduled := fun _ => by decide +kernel

theorem test_met_EveryStepKeepsTheInvariants : Inv longSession ∧ ∃ t, step longSession = .next t :=
  ⟨test_long_session_meets_the_invariants, _, rfl⟩

theorem test_met_SessionNeverMeetsAnExhaustedStream : Inv longSession ∧ ∃ t, exec .xblock longSession = .next t :=
  ⟨test_long_session_meets_the_invariants, _, rfl⟩

theorem test_met_StreamStateChangesOnlyAsListed_leaving :
    (∃ t, step (due 0x01 keyed) = .next t ∧ t.stream ≠ keyed.stream ∧ Commits (due 0x01 keyed) .clear) ∧
    (∃ t, step (atPort [.resetHeld none]) = .next t ∧ t.stream ≠ keyed.stream ∧ ResetNext (atPort [.resetHeld none])) :=
  ⟨⟨_, rfl, by decide, _, rfl, rfl⟩, _, rfl, by decide, fun _ h => by (cases h), none, [], rfl⟩

theorem test_met_StreamStateChangesOnlyAsListed_starting :
    (∃ t, step (due 0x1010 State.reset) = .next t ∧ t.stream ≠ .noKey ∧ Commits (due 0x1010 State.reset) (.expand 16)) ∧
    (∃ t, step (due 0x11 (streamAt 1)) = .next t ∧ t.stream ≠ .streaming ∧ Commits (due 0x11 (streamAt 1)) .ctrrst ∧
      Keyed (due 0x11 (streamAt 1))) :=
  ⟨⟨_, rfl, by decide, _, rfl, rfl⟩, _, rfl, by decide, ⟨_, rfl, rfl⟩, by unfold Keyed; decide⟩

theorem test_met_StreamStateChangesOnlyAsListed_emitting :
    (∃ t, step (due 0x40 keyed) = .next t ∧ t.stream ≠ keyed.stream ∧ Commits (due 0x40 keyed) .ksblk ∧
      (due 0x40 keyed).xrem = 0 ∧ CanEmit (due 0x40 keyed)) ∧
    (∃ t, step (due 0x42 { streamAt 0xFFFF with xrem := 8 }) = .next t ∧ t.stream ≠ .streaming ∧
      Commits (due 0x42 { streamAt 0xFFFF with xrem := 8 }) .xblock ∧
      (due 0x42 { streamAt 0xFFFF with xrem := 8 }).xrem ≠ 0 ∧ CanEmit (due 0x42 { streamAt 0xFFFF with xrem := 8 })) :=
  ⟨⟨_, rfl, by decide, ⟨_, rfl, rfl⟩, rfl, .inl rfl⟩, _, rfl, by decide, ⟨_, rfl, rfl⟩, by decide, .inr rfl⟩

theorem test_met_CounterNeverWraps :
    (∃ t, step (due 0x40 (streamAt 0xFFFE)) = .next t ∧ t.ctr ≠ (due 0x40 (streamAt 0xFFFE)).ctr) ∧
    (∃ t, step (due 0x11 (streamAt 1)) = .next t ∧ t.ctr ≠ (due 0x11 (streamAt 1)).ctr) :=
  ⟨⟨_, rfl, by decide⟩, _, rfl, by decide⟩

theorem test_met_OnlyExpandAndClearWriteTheKeyFile :
    ∃ t, step (due 0x01 keyed) = .next t ∧ t.ksw ≠ keyed.ksw := ⟨_, rfl, by decide⟩

theorem test_met_LatchedIvIsFixedDuringAStream :
    (∃ t, step (due 0x11 { keyed with iv1H := 1 }) = .next t ∧ (t.ivl0 ≠ keyed.ivl0 ∨ t.ivl1H ≠ keyed.ivl1H)) ∧
    (∃ t, step (due 0x01 { keyed with ivl0 := 1 }) = .next t ∧ (t.ivl0 ≠ 1 ∨ t.ivl1H ≠ 0)) :=
  ⟨⟨_, rfl, by decide⟩, _, rfl, by decide⟩

theorem test_met_ExpandRunsTheKeySchedule : (0 : Byte) ≠ 16 ∧ (15 : Byte) ≠ 16 ∧ (17 : Byte) ≠ 16 := by decide

/-- For `KmixXorsTheRoundKey` and `RoundMapsEachByte`. -/
theorem test_met_round_key_index :
    (11 : Byte).toNat ≤ 11 ∧ 12 ≤ (12 : Byte).toNat ∧ Keyed keyed ∧ State.reset.stream = .noKey := by
  unfold Keyed; decide

/-- For `EncryptIsTwelveRounds`, `CtrrstRestartsTheStream` and `TwelveRoundCommandsEqualEncrypt`. -/
theorem test_met_keyed_or_not : Keyed keyed ∧ State.reset.stream = .noKey := by unfold Keyed; decide

theorem test_met_KsblkEmitsOneKeystreamBlock :
    (CanEmit (streamAt 0xFFFE) ∧ (streamAt 0xFFFE).xrem = 0 ∧ (streamAt 0xFFFE).ctr.toNat < 0xFFFF) ∧
    (CanEmit (streamAt 0xFFFF) ∧ (streamAt 0xFFFF).xrem = 0 ∧ (streamAt 0xFFFF).ctr = 0xFFFF) ∧
    (Keyed (session 1) ∧ (session 1).xrem ≠ 0) ∧ exhausted.stream = .exhausted ∧ exhausted.xrem = 0 := by
  unfold CanEmit Keyed; decide

theorem test_met_XstartOpensASession :
    (CanEmit (streamAt 1) ∧ (524280 + 7) / 8 ≤ 65536 - (streamAt 1).ctr.toNat ∧
      65536 - (streamAt 1).ctr.toNat < (524281 + 7) / 8) ∧
    (CanEmit keyed ∧ keyed.xrem = 0 ∧ (524288 + 7) / 8 ≤ 65536 - keyed.ctr.toNat ∧
      65536 - keyed.ctr.toNat < (524289 + 7) / 8) ∧
    (exhausted.stream = .exhausted ∧ exhausted.xrem = 0 ∧ exhausted.length = 0) ∧
    ({ exhausted with length := 1 } : State).length ≠ 0 := by
  unfold CanEmit; decide

theorem test_met_XblockTransformsTheNextBytes :
    (CanEmit (session 1) ∧ (session 1).xrem ≠ 0) ∧ (CanEmit (session 8) ∧ (session 8).xrem ≠ 0) ∧
    (Keyed keyed ∧ keyed.xrem = 0) ∧
    ({ exhausted with xrem := 1 } : State).stream = .exhausted ∧ ({ exhausted with xrem := 1 } : State).xrem ≠ 0 := by
  unfold CanEmit Keyed; decide

theorem test_met_FreshStreamAdmits524288Bytes :
    keyed.stream = .init ∧ keyed.ctr = 0 ∧ keyed.xrem = 0 ∧
    ({ keyed with length := 524288 } : State).length.toNat ≤ 524288 ∧
    524288 < ({ keyed with length := 524289 } : State).length.toNat := by decide

theorem test_met_ResultRegistersAloneChangeInTheWindow :
    (∃ t, exec .rotw keyed = .next t) ∧ (∃ t, exec (.kmix 11) keyed = .next t) ∧ Reg.win ≠ .status ∧ Reg.win ≠ .wout ∧
      Reg.win ≠ .bout0 ∧ Reg.win ≠ .bout1 ∧ Instr.rotw ∈ [Instr.rotw, .subw, .wtrans] :=
  ⟨⟨_, rfl⟩, ⟨_, rfl⟩, by decide⟩

theorem test_met_SboxIsABijectionWithoutFixedPoint : ∃ a b : Byte, sbox a = sbox b := ⟨0x52, 0x52, rfl⟩

theorem test_met_PermutationHasOrderTen : (0 < 1 ∧ 1 < 10) ∧ 0 < 9 ∧ 9 < 10 := by decide

theorem test_met_CipherMovesEachByteAlone :
    (∀ m < 8, m ≠ 7 → blockByte 0x067E6C37AA042F00 m = blockByte 0x067E6C37AA042FFF m) ∧
    (∀ m < 8, m ≠ 0 → blockByte 0x007E6C37AA042F00 m = blockByte 0xFF7E6C37AA042F00 m) := by decide

theorem test_met_CounterValuesGiveDistinctBlocks :
    (streamAt 0).ksw = (streamAt 0xFFFF).ksw ∧ (streamAt 0).ivl0 = (streamAt 0xFFFF).ivl0 ∧
      (streamAt 0).ivl1H = (streamAt 0xFFFF).ivl1H ∧ (streamAt 0).ctr ≠ (streamAt 0xFFFF).ctr := by decide

theorem test_met_RoundIsPermThenSubbThenKmix : (11 : Byte).toNat ≤ 11 ∧ Keyed keyed := by unfold Keyed; decide

/-- For the two statements about a transform: 13 bytes in two blocks (CM-5), the last byte of a stream, no byte, and the
longest session, of 65536 blocks. -/
theorem test_met_transforms :
    (CanEmit keyed ∧ keyed.xrem = 0 ∧
      ([0x48656C6C6F2C2077, 0x6F726C6421000000] : List Block).length = ((13 : Word).toNat + 7) / 8 ∧
      2 ≤ 65536 - keyed.ctr.toNat) ∧
    (CanEmit (streamAt 0xFFFF) ∧ (streamAt 0xFFFF).xrem = 0 ∧ ([0] : List Block).length = ((1 : Word).toNat + 7) / 8 ∧
      1 ≤ 65536 - (streamAt 0xFFFF).ctr.toNat ∧ (streamAt 0xFFFF).ctr.toNat + 1 = 65536) ∧
    ([] : List Block).length = ((0 : Word).toNat + 7) / 8 ∧
    ((524288 : Word).toNat + 7) / 8 = 65536 - keyed.ctr.toNat := by
  unfold CanEmit; decide

/-- For `TransformTwiceRestoresTheData`. -/
theorem test_met_TransformTwiceRestoresTheData :
    Keyed exhausted ∧ (13 : Word).toNat ≤ 524288 ∧ (524288 : Word).toNat ≤ 524288 ∧
      ([0x48656C6C6F2C2077, 0x6F726C6421000000] : List Block).length = ((13 : Word).toNat + 7) / 8 ∧
      (List.replicate 65536 (0 : Block)).length = ((524288 : Word).toNat + 7) / 8 :=
  ⟨by unfold Keyed; decide, by decide, by decide, by decide, List.length_replicate⟩

/-- A host about to make the one read of its program, of STATUS, on the core `c`. -/
def hostReading (c : State) : HostState := ⟨[.rd .status 0], 0, [], c, [.proceeds], 0, []⟩

/-- For a core with nothing pending, and for one in the first or the last cycle of the BUSY window. -/
theorem test_met_HostReadGivesTheNameTheRegister :
    ∀ c ∈ [keyed, busyWith 2 [], busyWith 1 []],
      (hostReading c).program[(hostReading c).pc]? = some (.rd .status 0) ∧
      (∀ v, (hostReading c).core.pending ≠ some ⟨v, 0⟩) ∧ (hostReading c).core.inbox = [] ∧
      (hostReading c).turns = .proceeds :: [] := by
  intro c hc
  simp only [List.mem_cons, List.not_mem_nil, or_false] at hc
  rcases hc with rfl | rfl | rfl <;> exact ⟨rfl, fun _ h => by (cases h), rfl, rfl⟩

end Sys2Proof.Tests
end

section
/-! PROOFS. Where a host address falls in the window (R9, R60), wherever BASE lies: no lemma looks at the value of
`Config.basePage`. -/

namespace Sys2Proof.Machine

/-- R9: BASE is aligned to the window's 4096 bytes. -/
theorem windowBase_mod_4096 : windowBase % 4096 = 0 := Nat.mul_mod_right 4096 Config.basePage

/-- R60: a 12-bit offset is less than 4096, so BASE plus it is in the window, and taking BASE off gives it back. -/
@[simp] theorem windowOffset_base_add (off : Offset) : windowOffset (windowBase + off.toNat) = some off := by
  have hin : windowBase ≤ windowBase + off.toNat ∧ windowBase + off.toNat < windowBase + 4096 :=
    ⟨Nat.le_add_right _ _, Nat.add_lt_add_left off.isLt _⟩
  rw [windowOffset, if_pos hin, Nat.add_sub_cancel_left, BitVec.ofNat_toNat, BitVec.setWidth_eq]

theorem windowOffset_eq_none_iff {addr : Nat} :
    windowOffset addr = none ↔ addr < windowBase ∨ windowBase + 4096 ≤ addr := by
  rw [windowOffset, ite_eq_right_iff]
  simp only [reduceCtorEq, imp_false]
  omega

theorem slotAtAddress_of_some {addr : Nat} {off : Offset} (h : windowOffset addr = some off)
    (access : Offset → Access) : slotAtAddress addr access = .access (access off) := by
  simp only [slotAtAddress, h]

theorem slotAtAddress_of_none {addr : Nat} (h : windowOffset addr = none) (access : Offset → Access) :
    slotAtAddress addr access = .idle := by
  simp only [slotAtAddress, h]

/-- Settles O16: each clause is what `windowOffset` answers at that address. -/
theorem windowIsReachedWhereverBaseIs : Obligations.WindowIsReachedWhereverBaseIs :=
  ⟨windowBase_mod_4096,
    fun off access => slotAtAddress_of_some (windowOffset_base_add off) access,
    fun _ access hout => slotAtAddress_of_none (windowOffset_eq_none_iff.mpr hout) access⟩

end Sys2Proof.Machine
end

section
/-! PROOFS. What a step that answers a next state can have done, said once: how a command ends, what a core cycle at the
port keeps, and the two put together. -/

namespace Sys2Proof.Machine

/-! ### How a command ends -/

/-- The outcomes that a command can report as an error: all but OK, and ShapeMismatch, which is never raised (R213). -/
def raisable (e : ErrorCode) : Bool :=
  match e with
  | .ok | .shapeMismatch => false
  | .invalidKeyLength | .streamTooLong | .streamExhausted | .noKey | .illegalCommand | .sequenceError => true

/-- The commands whose result is BOUT and that are no part of a stream (R150 to R154). -/
def IsBlockCommand (i : Instr) : Prop :=
  i ∈ [Instr.perm, .subb, .encrypt] ∨ (∃ k, i = .round k) ∨ (∃ k, i = .kmix k)

/-- The ways in which the command `i`, committed in `s`, can end (R200): each constructor is one list of writes, with what
the command checked before it made them. -/
inductive CommandEnd (s : State) : Instr → State → Prop
  | error {i : Instr} {e : ErrorCode} (raised : raisable e = true) : CommandEnd s i (finish e s)
  | nop : CommandEnd s .nop (finish .ok s)
  | clear : CommandEnd s .clear (finish .ok (resetCore s))
  | expand : CommandEnd s (.expand 16) (finish .ok (restartStream (latchIv { s with ksw := keySchedule s.seed })))
  | ctrrst (keyed : Keyed s) : CommandEnd s .ctrrst (finish .ok (restartStream (latchIv s)))
  | wordResult {i : Instr} (word : i ∈ [Instr.rotw, .subw, .wtrans]) (w : Word) :
      CommandEnd s i (finish .ok { s with wout := w })
  | blockResult {i : Instr} (block : IsBlockCommand i) (b : Block) : CommandEnd s i (finish .ok { s with bout := b })
  | ksblk (emits : CanEmit s) (closed : s.xrem = 0) :
      CommandEnd s .ksblk (finish .ok { advanceCounter s with bout := keystreamBlock s })
  | xstart (keyed : Keyed s) (closed : s.xrem = 0) (fits : ceilDiv s.length.toNat 8 ≤ blocksLeft s) :
      CommandEnd s .xstart (finish .ok { s with xrem := s.length })
  | xblock (emits : CanEmit s) (isOpen : s.xrem ≠ 0) :
      CommandEnd s .xblock (finish .ok { advanceCounter s with
        bout := (s.bin ^^^ keystreamBlock s) &&& leadingMask (chunkSize s)
        xrem := s.xrem - BitVec.ofNat 32 (chunkSize s) })

/-- A core that holds round keys and whose stream is not exhausted can emit (R170, R173). -/
theorem canEmit_of_keyed {s : State} (keyed : Keyed s) (left : s.stream ≠ .exhausted) : CanEmit s := by
  cases hst : s.stream with
  | noKey => exact absurd hst keyed
  | init => exact .inl hst
  | streaming => exact .inr hst
  | exhausted => exact absurd hst left

theorem keyed_of_canEmit {s : State} (emits : CanEmit s) : Keyed s := by
  unfold Keyed
  rcases emits with h | h <;> simp [h]

/-- A command behind the check for round keys ends in NoKey, or keys are held and it ends as its body does (R216). -/
theorem commandEnd_withKey {i : Instr} {s t : State} {o : Host.Outcome State Fault Refusal}
    (h : withKey s o = .next t) (body : Keyed s → o = .next t → CommandEnd s i t) : CommandEnd s i t := by
  rcases withKey_cases s o with ⟨_, hw⟩ | ⟨keyed, hw⟩ <;> rw [hw] at h
  · cases h; exact .error rfl
  · exact body keyed h

theorem execKmix_end {k : Byte} {s t : State} (h : execKmix k s = .next t) : CommandEnd s (.kmix k) t := by
  unfold execKmix at h
  split at h
  · cases h; exact .error rfl
  · exact commandEnd_withKey h fun _ h => by cases h; exact .blockResult (.inr (.inr ⟨k, rfl⟩)) _

theorem execRound_end {k : Byte} {s t : State} (h : execRound k s = .next t) : CommandEnd s (.round k) t := by
  unfold execRound at h
  split at h
  · cases h; exact .error rfl
  · exact commandEnd_withKey h fun _ h => by cases h; exact .blockResult (.inr (.inl ⟨k, rfl⟩)) _

theorem execEncrypt_end {s t : State} (h : execEncrypt s = .next t) : CommandEnd s .encrypt t :=
  commandEnd_withKey h fun _ h => by cases h; exact .blockResult (.inl (by decide)) _

theorem execExpand_end {len : Byte} {s t : State} (h : execExpand len s = .next t) : CommandEnd s (.expand len) t := by
  unfold execExpand at h
  split at h
  · cases h; exact .error rfl
  · next hlen =>
    obtain rfl : len = 16 := not_not.mp hlen
    cases h; exact .expand

theorem execKsblk_end {s t : State} (h : execKsblk s = .next t) : CommandEnd s .ksblk t := by
  refine commandEnd_withKey h fun keyed h => ?_
  split at h
  · cases h; exact .error rfl
  · next closed =>
    split at h
    · cases h; exact .error rfl
    · next left => cases h; exact .ksblk (canEmit_of_keyed keyed left) (not_not.mp closed)

theorem execXstart_end {s t : State} (h : execXstart s = .next t) : CommandEnd s .xstart t := by
  refine commandEnd_withKey h fun keyed h => ?_
  split at h
  · cases h; exact .error rfl
  · next closed =>
    split at h
    · cases h; exact .error rfl
    · next fits => cases h; exact .xstart keyed (not_not.mp closed) (Nat.le_of_not_lt fits)

theorem execXblock_end {s t : State} (h : execXblock s = .next t) : CommandEnd s .xblock t := by
  refine commandEnd_withKey h fun keyed h => ?_
  split at h
  · cases h; exact .error rfl
  · next isOpen =>
    split at h
    · cases h; exact .error rfl
    · next left => cases h; exact .xblock (canEmit_of_keyed keyed left) isOpen

/-- Every command ends in one of the ways of `CommandEnd` (R200). -/
theorem exec_end {i : Instr} {s t : State} (h : exec i s = .next t) : CommandEnd s i t := by
  cases i with
  | nop => cases h; exact .nop
  | clear => cases h; exact .clear
  | expand len => exact execExpand_end h
  | ctrrst => exact commandEnd_withKey h fun keyed h => by cases h; exact .ctrrst keyed
  | wtrans => cases h; exact .wordResult (by decide) _
  | subw => cases h; exact .wordResult (by decide) _
  | rotw => cases h; exact .wordResult (by decide) _
  | round k => exact execRound_end h
  | encrypt => exact execEncrypt_end h
  | perm => cases h; exact .blockResult (.inl (by decide)) _
  | subb => cases h; exact .blockResult (.inl (by decide)) _
  | kmix k => exact execKmix_end h
  | ksblk => exact execKsblk_end h
  | xstart => exact execXstart_end h
  | xblock => exact execXblock_end h

/-! ### What a core cycle at the port keeps -/

/-- `t` has the stream of `s`: its keys, its latched IV, its counter and its session. -/
structure SameStream (s t : State) : Prop where
  stream : t.stream = s.stream
  ctr : t.ctr = s.ctr
  xrem : t.xrem = s.xrem
  ivl0 : t.ivl0 = s.ivl0
  ivl1H : t.ivl1H = s.ivl1H
  ksw : t.ksw = s.ksw

theorem SameStream.refl (s : State) : SameStream s s := ⟨rfl, rfl, rfl, rfl, rfl, rfl⟩

theorem sameStream_wout (s : State) (w : Word) : SameStream s { s with wout := w } := ⟨rfl, rfl, rfl, rfl, rfl, rfl⟩

theorem sameStream_bout (s : State) (b : Block) : SameStream s { s with bout := b } := ⟨rfl, rfl, rfl, rfl, rfl, rfl⟩

/-- What a core cycle without reset keeps: the stream and ERR, which no host access writes (R66), and the agreement of
BUSY with PENDING. -/
structure PortCycle (s t : State) : Prop extends SameStream s t where
  err : t.err = s.err
  busyPending : s.busy = s.pending.isSome → t.busy = t.pending.isSome

theorem PortCycle.trans {s t u : State} (h : PortCycle s t) (k : PortCycle t u) : PortCycle s u where
  stream := k.stream.trans h.stream
  ctr := k.ctr.trans h.ctr
  xrem := k.xrem.trans h.xrem
  ivl0 := k.ivl0.trans h.ivl0
  ivl1H := k.ivl1H.trans h.ivl1H
  ksw := k.ksw.trans h.ksw
  err := k.err.trans h.err
  busyPending := k.busyPending ∘ h.busyPending

theorem portCycle_inbox (s : State) (rest : List Slot) : PortCycle s { s with inbox := rest } :=
  ⟨⟨rfl, rfl, rfl, rfl, rfl, rfl⟩, rfl, id⟩

theorem portCycle_recordReply (v : Word) (s : State) : PortCycle s (recordReply v s) :=
  ⟨⟨rfl, rfl, rfl, rfl, rfl, rfl⟩, rfl, id⟩

theorem portCycle_countDown (s : State) : PortCycle s (countDown s) := by
  unfold countDown
  split
  · next hp => exact ⟨⟨rfl, rfl, rfl, rfl, rfl, rfl⟩, rfl, fun hb => by simp_all⟩
  all_goals exact ⟨⟨rfl, rfl, rfl, rfl, rfl, rfl⟩, rfl, id⟩

/-- A write keeps BUSY in agreement with PENDING: it is dropped, it starts a command, or it touches neither. -/
theorem memWrite_busyPending {s : State} (hb : s.busy = s.pending.isSome) (off : Offset) (v : Word) :
    (memWrite off v s).busy = (memWrite off v s).pending.isSome := by
  rcases memWrite_cases off v s with ⟨_, hw⟩ | ⟨_, hw⟩ | ⟨hidle, hbusy, hpend, _⟩
  · rw [hw]; exact hb
  · rw [hw]; rfl
  · rw [hbusy, hpend, ← hb, hidle]

theorem portCycle_memWrite (off : Offset) (v : Word) (s : State) : PortCycle s (memWrite off v s) where
  stream := memWrite_stream off v s
  ctr := memWrite_ctr off v s
  xrem := memWrite_xrem off v s
  ivl0 := memWrite_ivl0 off v s
  ivl1H := memWrite_ivl1H off v s
  ksw := memWrite_ksw off v s
  err := memWrite_err off v s
  busyPending hb := memWrite_busyPending hb off v

/-- What the port serves is a reset, or keeps the stream. -/
theorem servePort_next {s t : State} (h : servePort s = .next t) :
    (∃ a rest, s.inbox = .resetHeld a :: rest ∧ t = resetCore { s with inbox := rest }) ∨ PortCycle s t := by
  rcases servePort_cases h with ⟨_, rfl⟩ | ⟨slot, rest, hi, ⟨_, rfl⟩ | ⟨off, _, rfl⟩ | ⟨off, v, _, rfl⟩ | ⟨a, rfl, rfl⟩⟩
  · exact .inr ⟨⟨rfl, rfl, rfl, rfl, rfl, rfl⟩, rfl, id⟩
  · exact .inr (portCycle_inbox s rest)
  · exact .inr ((portCycle_inbox s rest).trans (portCycle_recordReply _ _))
  · exact .inr ((portCycle_inbox s rest).trans (portCycle_memWrite off v _))
  · exact .inl ⟨a, rest, hi, rfl⟩

/-! ### The step -/

/-- What a step that goes on has done: committed a legal command, committed an illegal word, passed a cycle with reset
asserted, or passed any other core cycle. -/
inductive StepDone (s t : State) : Prop
  | command (i : Instr) (commits : Commits s i) (ended : CommandEnd s i t)
  | illegal (eq : t = finish .illegalCommand s)
  | reset (next : ResetNext s) (c : State) (eq : t = resetCore c)
  | port (cycle : PortCycle s t)

theorem step_done {s t : State} (h : step s = .next t) : StepDone s t := by
  rcases step_cases s with ⟨v, hp, hs⟩ | ⟨notDue, hs⟩ <;> rw [hs] at h
  · rcases commitWord_cases v s with ⟨i, hd, hc⟩ | ⟨_, hc⟩ <;> rw [hc] at h
    · exact .command i ⟨v, hp, hd⟩ (exec_end h)
    · cases h; exact .illegal rfl
  · rcases servePort_next h with ⟨a, rest, hi, rfl⟩ | cycle
    · rw [countDown_eq] at hi
      exact .reset ⟨notDue, a, rest, hi⟩ _ rfl
    · exact .port ((portCycle_countDown s).trans cycle)

end Sys2Proof.Machine
end

section
/-! PROOFS. The invariants of R42: how each way of a step keeps them. -/

namespace Sys2Proof.Machine

/-- The codes that a command's end leaves in ERR are those of R42 item 6. -/
theorem errCode_mem {e : ErrorCode} (h : e ≠ .shapeMismatch) :
    errCode e ∈ ([0, 1, 3, 4, 5, 6, 7] : List (BitVec 4)) := by
  cases e <;> revert h <;> decide

theorem ne_shapeMismatch_of_raisable {e : ErrorCode} (h : raisable e = true) : e ≠ .shapeMismatch := by
  rintro rfl; cases h

/-- The first four words of a key schedule are its seed (R107). -/
theorem keySchedule_getElem_seed (seed : Vector Word 4) {i : Nat} (hi : i < 4) : (keySchedule seed)[i] = seed[i] := by
  have hl : i < seed.toList.length := by simpa using hi
  simp only [keySchedule, Vector.getElem_ofFn]
  rw [scheduleLoop_getD 20 seed.toList hl]
  simp [hi]

/-- A key schedule is that of its own first four words (R109). -/
theorem keySchedule_of_own_words (seed : Vector Word 4) :
    keySchedule seed = keySchedule
      #v[(keySchedule seed)[0], (keySchedule seed)[1], (keySchedule seed)[2], (keySchedule seed)[3]] := by
  have hseed : #v[(keySchedule seed)[0], (keySchedule seed)[1], (keySchedule seed)[2], (keySchedule seed)[3]] = seed := by
    ext i hi
    interval_cases i <;> simp [keySchedule_getElem_seed]
  rw [hseed]

/-- The invariants speak of the stream, of ERR and of BUSY with PENDING alone. -/
theorem Inv.of_sameStream {s t : State} (inv : Inv s) (same : SameStream s t)
    (err : t.err ∈ ([0, 1, 3, 4, 5, 6, 7] : List (BitVec 4))) (busyPending : t.busy = t.pending.isSome) : Inv t where
  noKeyClear := by
    rw [same.stream, same.ctr, same.xrem, same.ivl0, same.ivl1H, same.ksw]; exact inv.noKeyClear
  initCounter := by rw [same.stream, same.ctr]; exact inv.initCounter
  exhaustedCounter := by rw [same.stream, same.ctr]; exact inv.exhaustedCounter
  sessionFits := by unfold CanEmit; rw [same.stream, same.ctr, same.xrem]; exact inv.sessionFits
  remainingBound := by rw [same.xrem]; exact inv.remainingBound
  errCodes := err
  busyPending := busyPending
  scheduled := by
    have hk : t.ksw = s.ksw := same.ksw
    unfold Keyed
    simp only [same.stream, hk]
    exact inv.scheduled

theorem Inv.portCycle {s t : State} (inv : Inv s) (cycle : PortCycle s t) : Inv t :=
  inv.of_sameStream cycle.toSameStream (cycle.err ▸ inv.errCodes) (cycle.busyPending inv.busyPending)

/-- The end of a command that leaves the stream alone keeps the invariants. -/
theorem Inv.after_finish {s t : State} (inv : Inv s) (same : SameStream s t) (e : ErrorCode) (he : e ≠ .shapeMismatch) :
    Inv (finish e t) :=
  inv.of_sameStream ⟨same.stream, same.ctr, same.xrem, same.ivl0, same.ivl1H, same.ksw⟩ (errCode_mem he) rfl

/-- The values of R43 meet the invariants. -/
theorem inv_resetCore (s : State) : Inv (resetCore s) where
  noKeyClear _ := ⟨rfl, rfl, rfl, rfl, rfl⟩
  initCounter h := nomatch h
  exhaustedCounter h := nomatch h
  sessionFits h := absurd rfl h
  remainingBound := Nat.zero_le _
  errCodes := .head _
  busyPending := rfl
  scheduled h := absurd rfl h

/-- A stream restarted on a key schedule meets the invariants (R113, R185). -/
theorem inv_restartStream {s : State} (scheduled : s.ksw = keySchedule #v[s.ksw[0], s.ksw[1], s.ksw[2], s.ksw[3]]) :
    Inv (finish .ok (restartStream s)) where
  noKeyClear h := nomatch h
  initCounter _ := rfl
  exhaustedCounter h := nomatch h
  sessionFits h := absurd rfl h
  remainingBound := Nat.zero_le _
  errCodes := .head _
  busyPending := rfl
  scheduled _ := scheduled

/-- Where a stream can still emit, `blocks_left()` is what the counter leaves (R171). -/
theorem blocksLeft_of_canEmit {s : State} (h : CanEmit s) : blocksLeft s = 65536 - s.ctr.toNat := by
  rcases h with h | h <;> simp [blocksLeft, h]

theorem blocksLeft_le (s : State) : blocksLeft s ≤ 65536 := by
  unfold blocksLeft; split <;> omega

/-- Only a stream that can emit has blocks left (R171). -/
theorem canEmit_of_blocksLeft_pos {s : State} (h : 0 < blocksLeft s) : CanEmit s := by
  cases hst : s.stream with
  | init => exact .inl hst
  | streaming => exact .inr hst
  | noKey | exhausted => simp [blocksLeft, hst] at h

/-- XSTART opens a session that fits the stream (R177, R187). -/
theorem Inv.openSession {s : State} (inv : Inv s) (keyed : Keyed s) (fits : ceilDiv s.length.toNat 8 ≤ blocksLeft s) :
    Inv (finish .ok { s with xrem := s.length }) where
  noKeyClear h := absurd h keyed
  initCounter := inv.initCounter
  exhaustedCounter := inv.exhaustedCounter
  sessionFits hx := by
    have hpos : s.length.toNat ≠ 0 := fun h => hx (BitVec.eq_of_toNat_eq h)
    unfold ceilDiv at fits
    have emits : CanEmit s := canEmit_of_blocksLeft_pos (by omega)
    rw [blocksLeft_of_canEmit emits] at fits
    exact ⟨emits, fits⟩
  remainingBound := by
    have hle := fits.trans (blocksLeft_le s)
    unfold ceilDiv at hle
    show s.length.toNat ≤ 524288
    omega
  errCodes := .head _
  busyPending := rfl
  scheduled := inv.scheduled

/-- The bytes an XBLOCK leaves to go (R188). -/
theorem xrem_sub_chunkSize (s : State) : (s.xrem - BitVec.ofNat 32 (chunkSize s)).toNat = s.xrem.toNat - 8 := by
  have hle : chunkSize s ≤ s.xrem.toNat := Nat.min_le_right _ _
  have hsize : chunkSize s = min 8 s.xrem.toNat := rfl
  have := s.xrem.isLt
  rw [BitVec.toNat_sub, BitVec.toNat_ofNat]
  omega

/-- An emission leaves the stream in STREAMING or EXHAUSTED (R173). -/
theorem advanceCounter_stream_ne (s : State) :
    (advanceCounter s).stream ≠ .noKey ∧ (advanceCounter s).stream ≠ .init := by
  rw [advanceCounter_stream]
  split <;> decide

/-- An emission before the last counter value goes on to the next one (R173, R174). -/
theorem advanceCounter_of_lt {s : State} (h : s.ctr.toNat + 1 < 65536) :
    (advanceCounter s).stream = .streaming ∧ (advanceCounter s).ctr.toNat = s.ctr.toNat + 1 := by
  have hne : s.ctr ≠ 0xFFFF := fun he => by simp [he] at h
  rw [advanceCounter_stream, advanceCounter_ctr, if_neg hne, if_neg hne]
  exact ⟨rfl, BitVec.toNat_add_of_lt h⟩

/-- An emission keeps the invariants: the counter takes one block, and the session, if one is open, at most its eight
bytes, so what is left of it still fits (R173, R177). -/
theorem Inv.emit {s : State} (inv : Inv s) (emits : CanEmit s) (b : Block) {x : Word}
    (hx : x.toNat = s.xrem.toNat - 8) :
    Inv (finish .ok { advanceCounter s with bout := b, xrem := x }) where
  noKeyClear h := absurd h (advanceCounter_stream_ne s).1
  initCounter h := absurd h (advanceCounter_stream_ne s).2
  exhaustedCounter := by
    simp only [finish_stream, finish_ctr, advanceCounter_stream, advanceCounter_ctr]
    split <;> simp_all
  sessionFits := by
    intro hopen
    have hleft : 0 < x.toNat := Nat.pos_of_ne_zero fun h => hopen (BitVec.eq_of_toNat_eq h)
    have hsession : s.xrem ≠ 0 := fun h => by simp [h, hx] at hleft
    have hfits := (inv.sessionFits hsession).2
    have hctr : s.ctr.toNat + 1 < 65536 := by omega
    obtain ⟨hstream, hnext⟩ := advanceCounter_of_lt hctr
    refine ⟨.inr hstream, ?_⟩
    show (x.toNat + 7) / 8 ≤ 65536 - (advanceCounter s).ctr.toNat
    omega
  remainingBound := by
    have hbound := inv.remainingBound
    show x.toNat ≤ 524288
    omega
  errCodes := .head _
  busyPending := rfl
  scheduled _ := by
    simpa using inv.scheduled (keyed_of_canEmit emits)

/-- Settles O25: by what the step has done, and for a command by how it ended. -/
theorem everyStepKeepsTheInvariants : Obligations.EveryStepKeepsTheInvariants := by
  intro s t inv h
  cases step_done h with
  | illegal eq => rw [eq]; exact inv.after_finish (.refl s) .illegalCommand nofun
  | reset _ c eq => rw [eq]; exact inv_resetCore c
  | port cycle => exact inv.portCycle cycle
  | command i _ ended =>
    cases ended with
    | error raised => exact inv.after_finish (.refl s) _ (ne_shapeMismatch_of_raisable raised)
    | nop => exact inv.after_finish (.refl s) .ok nofun
    | clear => exact inv_resetCore s
    | expand => exact inv_restartStream (keySchedule_of_own_words s.seed)
    | ctrrst keyed => exact inv_restartStream (inv.scheduled keyed)
    | wordResult _ w => exact inv.after_finish (sameStream_wout s w) .ok nofun
    | blockResult _ b => exact inv.after_finish (sameStream_bout s b) .ok nofun
    | ksblk emits closed =>
      have hx : (advanceCounter s).xrem.toNat = s.xrem.toNat - 8 := by simp [closed]
      exact inv.emit emits (keystreamBlock s) hx
    | xstart keyed _ fits => exact inv.openSession keyed fits
    | xblock emits _ => exact inv.emit emits _ (xrem_sub_chunkSize s)

/-- Settles O26. -/
theorem invariantsHoldAtReset : Obligations.InvariantsHoldAtReset := inv_resetCore State.reset

end Sys2Proof.Machine
end

section
/-! PROOFS. Which steps write the key schedule file and the latched IV (R34, R35). -/

namespace Sys2Proof.Machine

/-- Only EXPAND 16 and CLEAR end with another key schedule file (R35). -/
theorem CommandEnd.ksw_eq {i : Instr} {s t : State} (ended : CommandEnd s i t) :
    i = .expand 16 ∨ i = .clear ∨ t.ksw = s.ksw := by
  cases ended with
  | expand => exact .inl rfl
  | clear => exact .inr (.inl rfl)
  | ksblk | xblock => exact .inr (.inr (advanceCounter_ksw s))
  | error | nop | ctrrst | wordResult | blockResult | xstart => exact .inr (.inr rfl)

/-- EXPAND 16 and CTRRST latch the staging IV, CLEAR zeroes the latched IV, and no other end of a command touches it
(R34). -/
theorem CommandEnd.ivl_eq {i : Instr} {s t : State} (ended : CommandEnd s i t) :
    ((i = .expand 16 ∨ i = .ctrrst) ∧ t.ivl0 = s.iv0 ∧ t.ivl1H = s.iv1H) ∨
    (i = .clear ∧ t.ivl0 = 0 ∧ t.ivl1H = 0) ∨ (t.ivl0 = s.ivl0 ∧ t.ivl1H = s.ivl1H) := by
  cases ended with
  | expand => exact .inl ⟨.inl rfl, rfl, rfl⟩
  | ctrrst => exact .inl ⟨.inr rfl, rfl, rfl⟩
  | clear => exact .inr (.inl ⟨rfl, rfl, rfl⟩)
  | ksblk | xblock => exact .inr (.inr ⟨advanceCounter_ivl0 s, advanceCounter_ivl1H s⟩)
  | error | nop | wordResult | blockResult | xstart => exact .inr (.inr ⟨rfl, rfl⟩)

/-- Settles O30: of the ways of a step, only reset and two commands leave another key schedule file. -/
theorem onlyExpandAndClearWriteTheKeyFile : Obligations.OnlyExpandAndClearWriteTheKeyFile := by
  intro s t h changed
  cases step_done h with
  | illegal eq => subst eq; exact absurd rfl changed
  | reset next => exact .inr (.inr next)
  | port cycle => exact absurd cycle.ksw changed
  | command i commits ended =>
    rcases ended.ksw_eq with rfl | rfl | same
    · exact .inl commits
    · exact .inr (.inl commits)
    · exact absurd same changed

/-- Settles O31: of the ways of a step, only reset and three commands leave another latched IV. -/
theorem latchedIvIsFixedDuringAStream : Obligations.LatchedIvIsFixedDuringAStream := by
  intro s t h changed
  have notSame : ¬ (t.ivl0 = s.ivl0 ∧ t.ivl1H = s.ivl1H) := not_and_or.mpr changed
  cases step_done h with
  | illegal eq => subst eq; exact absurd ⟨rfl, rfl⟩ notSame
  | reset next c eq => exact .inr ⟨.inr next, congrArg State.ivl0 eq, congrArg State.ivl1H eq⟩
  | port cycle => exact absurd ⟨cycle.ivl0, cycle.ivl1H⟩ notSame
  | command i commits ended =>
    rcases ended.ivl_eq with ⟨rfl | rfl, latched⟩ | ⟨rfl, zero⟩ | same
    · exact .inl ⟨.inl commits, latched⟩
    · exact .inl ⟨.inr commits, latched⟩
    · exact .inr ⟨.inl commits, zero⟩
    · exact absurd same notSame

end Sys2Proof.Machine
end

section
/-! PROOFS. The window after a word or block command (R37, R39): which registers show a result. -/

namespace Sys2Proof.Machine

/-- The end of a command shows in STATUS alone (R200). -/
theorem readReg_finish {r : Reg} (h : r ≠ .status) (e : ErrorCode) (s : State) :
    readReg r (finish e s) = readReg r s := by
  cases r with
  | status => exact absurd rfl h
  | _ => rfl

/-- The result of a word command shows in WOUT alone (R37). -/
theorem readReg_wout {r : Reg} (h : r ≠ .wout) (w : Word) (s : State) :
    readReg r { s with wout := w } = readReg r s := by
  cases r with
  | wout => exact absurd rfl h
  | _ => rfl

/-- The result of a block command shows in BOUT0 and BOUT1 alone (R39). -/
theorem readReg_bout {r : Reg} (h0 : r ≠ .bout0) (h1 : r ≠ .bout1) (b : Block) (s : State) :
    readReg r { s with bout := b } = readReg r s := by
  cases r with
  | bout0 => exact absurd rfl h0
  | bout1 => exact absurd rfl h1
  | _ => rfl

/-- A word command cannot fail: it writes WOUT (R110 to R112). -/
theorem exec_word_next {i : Instr} {s t : State} (word : i ∈ [Instr.rotw, .subw, .wtrans])
    (h : exec i s = .next t) : ∃ w, t = finish .ok { s with wout := w } := by
  simp only [List.mem_cons, List.not_mem_nil, or_false] at word
  rcases word with rfl | rfl | rfl <;> (cases h; exact ⟨_, rfl⟩)

/-- A block command writes BOUT, or ends in an error (R150 to R154). -/
theorem exec_block_next {i : Instr} {s t : State} (block : IsBlockCommand i) (h : exec i s = .next t) :
    (∃ e, t = finish e s) ∨ ∃ b, t = finish .ok { s with bout := b } := by
  cases exec_end h with
  | error => exact .inl ⟨_, rfl⟩
  | blockResult _ b => exact .inr ⟨b, rfl⟩
  | wordResult word _ =>
    simp only [List.mem_cons, List.not_mem_nil, or_false] at word
    rcases word with rfl | rfl | rfl <;> simp [IsBlockCommand] at block
  | nop | clear | expand | ctrrst | ksblk | xstart | xblock => simp [IsBlockCommand] at block

/-- Settles O48: the end of the command shows in STATUS, its result in WOUT or in BOUT. -/
theorem resultRegistersAloneChangeInTheWindow : Obligations.ResultRegistersAloneChangeInTheWindow := by
  intro i s t r h notStatus
  refine ⟨fun word notWout => ?_, fun block not0 not1 => ?_⟩
  · obtain ⟨w, rfl⟩ := exec_word_next word h
    rw [readReg_finish notStatus, readReg_wout notWout]
  · rcases exec_block_next block h with ⟨e, rfl⟩ | ⟨b, rfl⟩
    · exact readReg_finish notStatus e s
    · rw [readReg_finish notStatus, readReg_bout not0 not1]

end Sys2Proof.Machine
end

section
/-! PROOFS. A cycle of the BUSY window (R24, R255, R256): the countdown, and what the port serves in it. -/

namespace Sys2Proof.Machine

/-- A command that is not due has one cycle less to go when the port serves its slot (R200, R255). -/
theorem step_of_waiting {s : State} {v : Word} {n : Nat} (pending : s.pending = some ⟨v, n + 1⟩) :
    step s = servePort { s with pending := some ⟨v, n⟩ } := by
  rcases step_cases s with ⟨w, hdue, _⟩ | ⟨_, hs⟩
  · rw [pending] at hdue; cases hdue
  · rw [hs, countDown_pending pending]

theorem step_of_waiting_nil {s : State} {v : Word} {n : Nat} (pending : s.pending = some ⟨v, n + 1⟩)
    (inbox : s.inbox = []) : step s = .next { s with pending := some ⟨v, n⟩ } := by
  rw [step_of_waiting pending]
  simp [servePort, inbox]

theorem step_of_waiting_cons {s : State} {v : Word} {n : Nat} {slot : Slot} {rest : List Slot}
    (pending : s.pending = some ⟨v, n + 1⟩) (inbox : s.inbox = slot :: rest) :
    step s = serveSlot slot { s with pending := some ⟨v, n⟩, inbox := rest } := by
  rw [step_of_waiting pending]
  simp [servePort, inbox]

/-- No register shows PENDING or the port's slots (R41). -/
theorem memRead_pending_inbox (off : Offset) (s : State) (p : Option Pending) (slots : List Slot) :
    memRead off { s with pending := p, inbox := slots } = memRead off s := rfl

/-- Settles O8: the countdown of the waiting command, then what the port does with each kind of slot. -/
theorem busyWindowKeepsEveryRegister : Obligations.BusyWindowKeepsEveryRegister := by
  intro s v n busy pending
  refine ⟨step_of_waiting_nil pending, fun rest => step_of_waiting_cons pending, fun off x rest inbox => ?_,
    fun off rest inbox => ?_⟩
  · rw [step_of_waiting_cons pending inbox]
    exact congrArg Host.Outcome.next
      (memWrite_busy (s := { s with pending := some ⟨v, n⟩, inbox := rest }) busy off x)
  · rw [step_of_waiting_cons pending inbox, ← memRead_pending_inbox off s (some ⟨v, n⟩) rest]
    rfl

end Sys2Proof.Machine
end

section
/-! PROOFS. The fields of STATUS (R23) and the values of reset (R43). -/

namespace Sys2Proof.Machine

theorem memRead_status (s : State) : memRead 0x004 s = statusWord s := memRead_offsetOf .status s

theorem statusWord_busy (s : State) : (statusWord s).getLsbD 0 = s.busy := by
  simp only [statusWord, BitVec.getLsbD_append]
  grind

theorem statusWord_state (s : State) : (statusWord s).extractLsb' 1 2 = streamCode s.stream := by
  ext i hi
  simp only [statusWord, BitVec.getElem_extractLsb', BitVec.getLsbD_append]
  grind

theorem statusWord_xactive (s : State) : (statusWord s).getLsbD 3 = decide (s.xrem ≠ 0) := by
  rw [← xactive_eq]
  simp only [statusWord, BitVec.getLsbD_append]
  grind

theorem statusWord_drop (s : State) : (statusWord s).getLsbD 4 = s.drop := by
  simp only [statusWord, BitVec.getLsbD_append]
  grind

theorem statusWord_reserved_low (s : State) : (statusWord s).extractLsb' 5 3 = 0 := by
  ext i hi
  simp only [statusWord, BitVec.getElem_extractLsb', BitVec.getLsbD_append]
  grind

theorem statusWord_err (s : State) : (statusWord s).extractLsb' 8 4 = s.err := by
  ext i hi
  simp only [statusWord, BitVec.getElem_extractLsb', BitVec.getLsbD_append]
  grind

theorem statusWord_reserved_high (s : State) : (statusWord s).extractLsb' 12 20 = 0 := by
  ext i hi
  simp only [statusWord, BitVec.getElem_extractLsb', BitVec.getLsbD_append]
  grind

/-- An accepted write to STATUS is ignored (R66). -/
theorem memWrite_status {s : State} (idle : s.busy = false) (v : Word) : memWrite 0x004 v s = s := by
  have hr : regAt 0x004 = some .status := regAt_offsetOf .status
  rw [memWrite_idle idle, hr]
  rfl

/-- Settles O14: field by field of the word that a read of STATUS returns. -/
theorem statusShowsItsFields : Obligations.StatusShowsItsFields := by
  refine ⟨fun s => ?_, rfl, fun s v idle => memWrite_status idle v⟩
  rw [memRead_status, statusWord_state]
  refine ⟨statusWord_busy s, ?_, ?_, ?_, ?_, statusWord_xactive s, statusWord_drop s, statusWord_reserved_low s,
    statusWord_err s, statusWord_reserved_high s⟩
  all_goals (intro hst; rw [hst]; rfl)

/-- A state at `State.reset`, after a cycle of reset or after CLEAR has the reset values in every field of R20. -/
theorem eq_resetCore_of_reset_or_clear {s t : State}
    (h : t = State.reset ∨ (∃ a, serveSlot (.resetHeld a) s = .next t) ∨ exec .clear s = .next t) :
    ∃ c, t = resetCore c := by
  rcases h with rfl | ⟨a, h⟩ | h
  · exact ⟨State.reset, rfl⟩
  · rcases serveSlot_resetHeld_cases a s with hs | ⟨_, _, _, hs⟩ <;> rw [hs] at h <;> cases h
    exact ⟨s, rfl⟩
  · cases h; exact ⟨s, rfl⟩

/-- Settles O17: all three are `resetCore` of some state. -/
theorem resetAndClearGiveTheListedValues : Obligations.ResetAndClearGiveTheListedValues := by
  intro s t h
  obtain ⟨c, rfl⟩ := eq_resetCore_of_reset_or_clear h
  simp

end Sys2Proof.Machine
end

section
/-! PROOFS. When a step stops (R62, R222): a commit and a 32-bit access end in a next state, and a narrow access at the
port is refused. -/

namespace Sys2Proof.Machine

/-! ### Narrow accesses -/

theorem isNarrow_iff {a : Access} : isNarrow a = true ↔ ∃ off x,
    a = .read .byte off ∨ a = .read .half off ∨ a = .write .byte off x ∨ a = .write .half off x := by
  rcases a with ⟨w, off⟩ | ⟨w, off, v⟩ <;> cases w <;> simp [isNarrow]

theorem serveAccess_of_narrow {a : Access} (narrow : isNarrow a = true) (s : State) :
    serveAccess a s = .refused .narrowAccess := by
  rcases serveAccess_cases a s with ⟨off, rfl, _⟩ | ⟨off, v, rfl, _⟩ | refused
  · cases narrow
  · cases narrow
  · exact refused

theorem serveAccess_of_wide (s : State) : ∀ {a : Access}, isNarrow a = false → ∃ t, serveAccess a s = .next t
  | .read .word _, _ => ⟨_, rfl⟩
  | .write .word _ _, _ => ⟨_, rfl⟩

/-- The slot holds the access `a`, with reset asserted or not. -/
def Slot.Holds (slot : Slot) (a : Access) : Prop := slot = .access a ∨ slot = .resetHeld (some a)

/-- A narrow access is refused, during reset too (R62, log 6). -/
theorem serveSlot_of_narrow {slot : Slot} {a : Access} (holds : slot.Holds a) (narrow : isNarrow a = true)
    (s : State) : serveSlot slot s = .refused .narrowAccess := by
  rcases holds with rfl | rfl
  · exact serveAccess_of_narrow narrow s
  · simp [serveSlot, narrow]

/-- The port goes on with every slot but one that holds a narrow access (R62). -/
theorem serveSlot_next_or_narrow (slot : Slot) (s : State) :
    (∃ t, serveSlot slot s = .next t) ∨ ∃ a, slot.Holds a ∧ isNarrow a = true := by
  cases slot with
  | idle => exact .inl ⟨_, rfl⟩
  | access a =>
    cases ha : isNarrow a with
    | true => exact .inr ⟨a, .inl rfl, ha⟩
    | false => exact .inl (serveAccess_of_wide s ha)
  | resetHeld a =>
    rcases serveSlot_resetHeld_cases a s with hs | ⟨b, rfl, narrow, _⟩
    · exact .inl ⟨_, hs⟩
    · exact .inr ⟨b, .inr rfl, narrow⟩

/-! ### The step -/

theorem servePort_nil {s : State} (inbox : s.inbox = []) : servePort s = .next s := by
  simp [servePort, inbox]

theorem servePort_cons {s : State} {slot : Slot} {rest : List Slot} (inbox : s.inbox = slot :: rest) :
    servePort s = serveSlot slot { s with inbox := rest } := by
  simp [servePort, inbox]

theorem inbox_countDown (s : State) : (countDown s).inbox = s.inbox := by
  rw [countDown_eq]

/-- Where no commit is due, the step serves the slot at the port (R69). -/
theorem step_of_notDue_cons {s : State} {slot : Slot} {rest : List Slot} (notDue : ∀ v, s.pending ≠ some ⟨v, 0⟩)
    (inbox : s.inbox = slot :: rest) : step s = serveSlot slot { countDown s with inbox := rest } := by
  rcases step_cases s with ⟨v, due, _⟩ | ⟨_, hs⟩
  · exact absurd due (notDue v)
  · rw [hs, servePort_cons ((inbox_countDown s).trans inbox)]

theorem step_refuses_narrow {s : State} {slot : Slot} {a : Access} {rest : List Slot}
    (notDue : ∀ v, s.pending ≠ some ⟨v, 0⟩) (inbox : s.inbox = slot :: rest) (holds : slot.Holds a)
    (narrow : isNarrow a = true) : step s = .refused .narrowAccess := by
  rw [step_of_notDue_cons notDue inbox]
  exact serveSlot_of_narrow holds narrow _

/-- Every step goes on, but where the port serves a narrow access (R62, R222). -/
theorem step_next_or_narrow (s : State) :
    (∃ t, step s = .next t) ∨ ((∀ v, s.pending ≠ some ⟨v, 0⟩) ∧
      ∃ slot a rest, s.inbox = slot :: rest ∧ slot.Holds a ∧ isNarrow a = true) := by
  rcases step_cases s with ⟨v, _, hs⟩ | ⟨notDue, hs⟩
  · obtain ⟨t, ht, _⟩ := commitWord_next v s
    exact .inl ⟨t, hs.trans ht⟩
  · cases inbox : s.inbox with
    | nil => exact .inl ⟨_, hs.trans (servePort_nil ((inbox_countDown s).trans inbox))⟩
    | cons slot rest =>
      rcases serveSlot_next_or_narrow slot { countDown s with inbox := rest } with ⟨t, ht⟩ | ⟨a, holds, narrow⟩
      · exact .inl ⟨t, (step_of_notDue_cons notDue inbox).trans ht⟩
      · exact .inr ⟨notDue, slot, a, rest, rfl, holds, narrow⟩

/-- Settles O10: a commit always goes on, and so does the port, but for a slot with a narrow access. -/
theorem stepStopsOnlyOnNarrowAccess : Obligations.StepStopsOnlyOnNarrowAccess := by
  intro s
  rcases step_next_or_narrow s with goesOn | ⟨notDue, slot, a, rest, inbox, holds, narrow⟩
  · exact .inl goesOn
  · obtain ⟨off, x, shape⟩ := isNarrow_iff.mp narrow
    refine .inr ⟨step_refuses_narrow notDue inbox holds narrow, a, off, x, rest, ?_, shape⟩
    rcases holds with rfl | rfl
    · exact .inl inbox
    · exact .inr inbox

/-- Settles O11: the port serves the slot, and refuses it with reset asserted or not. -/
theorem narrowAccessIsRefused : Obligations.NarrowAccessIsRefused := by
  intro s a rest off x notDue inbox shape
  have narrow : isNarrow a = true := isNarrow_iff.mpr ⟨off, x, shape⟩
  rcases inbox with inbox | inbox
  · exact step_refuses_narrow notDue inbox (.inl rfl) narrow
  · exact step_refuses_narrow notDue inbox (.inr rfl) narrow

end Sys2Proof.Machine
end

section
/-! PROOFS. Reads and writes by row of the window, the row of an offset being the offset divided by 4 (R61, R62). -/

namespace Sys2Proof.Machine

/-! ### The rows -/

theorem regAtRow_seed : ∀ i : Fin 4, regAtRow (0x08 + i.val) = some (.seed i) := by decide

theorem regAtRow_ksw : ∀ i : Fin 24, regAtRow (0x40 + i.val) = some (.ksw i) := by decide

/-- A register is in the row of its own offset alone (R61). -/
theorem row_of_regAtRow {k : Nat} {r : Reg} (h : regAtRow k = some r) : (offsetOf r).toNat / 4 = k := by
  unfold regAtRow at h
  split at h
  case h_20 =>
    split at h
    · cases h; simp [offsetOf]; omega
    · cases h
  all_goals (cases h; rfl)

/-- The rows that hold no register (R61). -/
theorem regAtRow_unmapped {k : Nat} (h : k ∈ [0x05, 0x06, 0x07, 0x12, 0x13] ∨ (0x18 ≤ k ∧ k < 0x40) ∨ 0x58 ≤ k) :
    regAtRow k = none := by
  cases hr : regAtRow k with
  | none => rfl
  | some r =>
    rw [← row_of_regAtRow hr] at h
    clear hr
    cases r with
    | seed i | ksw i => revert i; decide
    | _ => revert h; decide

/-! ### The values that the pairs and IV1 show -/

theorem highWord_toNat (x : Block) : (highWord x).toNat = x.toNat / 2 ^ 32 := by
  simp [highWord, Nat.shiftRight_eq_div_pow]
  omega

theorem lowWord_toNat (x : Block) : (lowWord x).toNat = x.toNat % 2 ^ 32 := by
  simp [lowWord]

/-- IV1 shows a written word with bits 15:0 zero (R33). -/
theorem ivHalfWord_high_half (v : Word) : ivHalfWord (v.extractLsb' 16 16) = v &&& 0xFFFF0000 := by
  have halves : v = v.extractLsb' 16 16 ++ v.extractLsb' 0 16 := by
    ext i hi
    grind
  have mask : (0xFFFF0000 : Word) = BitVec.allOnes 16 ++ (0 : Half) := by decide
  calc ivHalfWord (v.extractLsb' 16 16)
      = (v.extractLsb' 16 16 &&& BitVec.allOnes 16) ++ (v.extractLsb' 0 16 &&& (0 : Half)) := by
        rw [BitVec.and_allOnes]; simp [ivHalfWord]
    _ = v &&& 0xFFFF0000 := by rw [← BitVec.and_append, ← halves, mask]

/-! ### Reads -/

theorem memRead_of_row {off : Offset} {k : Nat} {r : Reg} (row : off.toNat / 4 = k) (reg : regAtRow k = some r)
    (s : State) : memRead off s = readReg r s := by
  rw [memRead, regAt_eq_regAtRow, row, reg]

theorem memRead_unmapped {off : Offset} (unmapped : regAtRow (off.toNat / 4) = none) (s : State) :
    memRead off s = 0 := by
  rw [memRead, regAt_eq_regAtRow, unmapped]

/-- Settles O12: row by row, the register that the row holds. -/
theorem readReturnsTheAddressedRegister : Obligations.ReadReturnsTheAddressedRegister := by
  intro s off
  refine ⟨fun row => memRead_of_row (r := .cmd) row rfl s, fun row => ?status, fun row => ?ctr,
    fun row => memRead_of_row (r := .xrem) row rfl s, fun row => memRead_of_row (r := .length) row rfl s,
    fun i row => memRead_of_row row (regAtRow_seed i) s, fun row => memRead_of_row (r := .iv0) row rfl s,
    fun row => memRead_of_row (r := .iv1) row rfl s, fun row => memRead_of_row (r := .ivl0) row rfl s,
    fun row => memRead_of_row (r := .ivl1) row rfl s, fun row => memRead_of_row (r := .win) row rfl s,
    fun row => memRead_of_row (r := .wout) row rfl s, fun row => ?bin0, fun row => ?bin1, fun row => ?bout0,
    fun row => ?bout1, fun i row => memRead_of_row row (regAtRow_ksw i) s,
    fun rows => memRead_unmapped (regAtRow_unmapped rows) s, rfl⟩
  case status =>
    rw [memRead_of_row (r := .status) row rfl, ← xactive_eq]
    rfl
  case ctr =>
    rw [memRead_of_row (r := .ctr) row rfl]
    exact BitVec.toNat_setWidth_of_le (by decide)
  case bin0 => rw [memRead_of_row (r := .bin0) row rfl]; exact highWord_toNat s.bin
  case bin1 => rw [memRead_of_row (r := .bin1) row rfl]; exact lowWord_toNat s.bin
  case bout0 => rw [memRead_of_row (r := .bout0) row rfl]; exact highWord_toNat s.bout
  case bout1 => rw [memRead_of_row (r := .bout1) row rfl]; exact lowWord_toNat s.bout

/-! ### Writes -/

theorem memWrite_of_row {s : State} {off : Offset} {k : Nat} {r : Reg} (idle : s.busy = false)
    (row : off.toNat / 4 = k) (reg : regAtRow k = some r) (v : Word) : memWrite off v s = writeReg r v s := by
  rw [memWrite_idle idle, regAt_eq_regAtRow, row, reg]

/-- The rows whose registers accept a write (R61). -/
def writableRows : List Nat := [0x00, 0x04, 0x08, 0x09, 0x0A, 0x0B, 0x0C, 0x0D, 0x10, 0x14, 0x15]

theorem writeReg_of_readOnly {r : Reg} (readOnly : (offsetOf r).toNat / 4 ∉ writableRows) (v : Word) (s : State) :
    writeReg r v s = s := by
  cases r with
  | cmd | length | iv0 | iv1 | win | bin0 | bin1 => exact absurd (by decide) readOnly
  | seed i => exact absurd (by revert i; decide) readOnly
  | status | ctr | xrem | ivl0 | ivl1 | wout | bout0 | bout1 | ksw => rfl

/-- A write to a read-only or unmapped offset does nothing (R66). -/
theorem memWrite_ignored {s : State} {off : Offset} (idle : s.busy = false) (row : off.toNat / 4 ∉ writableRows)
    (v : Word) : memWrite off v s = s := by
  rw [memWrite_idle idle, regAt_eq_regAtRow]
  cases reg : regAtRow (off.toNat / 4) with
  | none => rfl
  | some r =>
    rw [← row_of_regAtRow reg] at row
    exact writeReg_of_readOnly row v s

/-- A write to CMD is accepted for at least one cycle (R200, R254). -/
theorem memWrite_cmd {s : State} {off : Offset} (idle : s.busy = false) (row : off.toNat / 4 = 0x00) (v : Word) :
    ∃ n, 1 ≤ n ∧ memWrite off v s = { s with busy := true, pending := some ⟨v, n⟩, draws := s.draws + 1 } :=
  ⟨latency v s, latency_pos v s, memWrite_of_row (r := .cmd) idle row rfl v⟩

/-- Settles O13: row by row, the register that the row holds. -/
theorem writeChangesTheAddressedRegisterOnly : Obligations.WriteChangesTheAddressedRegisterOnly := by
  intro s off v
  refine ⟨fun busy => memWrite_busy busy off v, fun idle => ?_⟩
  exact ⟨fun row => memWrite_cmd idle row v, fun row => memWrite_of_row (r := .length) idle row rfl v,
    fun i row => memWrite_of_row idle row (regAtRow_seed i) v, fun row => memWrite_of_row (r := .iv0) idle row rfl v,
    fun row => memWrite_of_row (r := .iv1) idle row rfl v, fun row => memWrite_of_row (r := .win) idle row rfl v,
    fun row => memWrite_of_row (r := .bin0) idle row rfl v, fun row => memWrite_of_row (r := .bin1) idle row rfl v,
    fun row => memWrite_ignored idle row v⟩

/-! ### A read after a write -/

theorem memWrite_offsetOf {s : State} (idle : s.busy = false) (r : Reg) (v : Word) :
    memWrite (offsetOf r) v s = writeReg r v s := by
  rw [memWrite_idle idle, regAt_offsetOf]

/-- A written SEED word shows in its own register (R32). -/
theorem readReg_seed_writeReg (i : Fin 4) (v : Word) (s : State) :
    readReg (.seed i) (writeReg (.seed i) v s) = v := Vector.getElem_set_self _

/-- The registers that return the whole word written (R68). -/
theorem readReg_writeReg_same {r : Reg}
    (full : r ∈ [Reg.length, .seed 0, .seed 1, .seed 2, .seed 3, .iv0, .win, .bin0, .bin1]) (v : Word) (s : State) :
    readReg r (writeReg r v s) = v := by
  cases r with
  | length | iv0 | win => rfl
  | seed i => exact readReg_seed_writeReg i v s
  | bin0 => exact highWord_append v (lowWord s.bin)
  | bin1 => exact lowWord_append (highWord s.bin) v
  | _ => simp at full

/-- A write of a register other than CMD shows in no other register (R66). -/
theorem readReg_writeReg_ne {r q : Reg} (notCmd : r ≠ .cmd) (other : q ≠ r) (v : Word) (s : State) :
    readReg q (writeReg r v s) = readReg q s := by
  cases r with
  | cmd => exact absurd rfl notCmd
  | status | ctr | xrem | ivl0 | ivl1 | wout | bout0 | bout1 | ksw => rfl
  | length => cases q with
    | length => exact absurd rfl other
    | _ => rfl
  | iv0 => cases q with
    | iv0 => exact absurd rfl other
    | _ => rfl
  | iv1 => cases q with
    | iv1 => exact absurd rfl other
    | _ => rfl
  | win => cases q with
    | win => exact absurd rfl other
    | _ => rfl
  | bin0 => cases q with
    | bin0 => exact absurd rfl other
    | bin1 => exact lowWord_append v (lowWord s.bin)
    | _ => rfl
  | bin1 => cases q with
    | bin1 => exact absurd rfl other
    | bin0 => exact highWord_append (highWord s.bin) v
    | _ => rfl
  | seed i => cases q with
    | seed j => exact Vector.getElem_set_ne i.isLt j.isLt fun h => other (by rw [Fin.ext h])
    | _ => rfl

/-- Settles O15: through the register at each offset. -/
theorem writeIsSeenByLaterReads : Obligations.WriteIsSeenByLaterReads := by
  intro s r q v idle
  simp only [memWrite_offsetOf idle, memRead_offsetOf]
  exact ⟨fun full => readReg_writeReg_same full v s, ivHalfWord_high_half v,
    fun notCmd other => readReg_writeReg_ne notCmd other v s⟩

end Sys2Proof.Machine
end

section
/-! PROOFS. An idle core: its port serves every slot, and a write to CMD is accepted (R65, R66, R200). -/

namespace Sys2Proof.Machine

theorem step_of_idle_nil {s : State} (nonePending : s.pending = none) (inbox : s.inbox = []) : step s = .next s := by
  rcases step_cases s with ⟨v, due, _⟩ | ⟨_, hs⟩
  · rw [nonePending] at due; cases due
  · rw [hs, countDown_none nonePending, servePort_nil inbox]

/-- With nothing pending, a step is what the port does with its next slot (R69). -/
theorem step_of_idle_cons {s : State} {slot : Slot} {rest : List Slot} (nonePending : s.pending = none)
    (inbox : s.inbox = slot :: rest) : step s = serveSlot slot { s with inbox := rest } := by
  rw [step_of_notDue_cons (by simp [nonePending]) inbox, countDown_none nonePending]

/-- Settles O7: what the port does with each kind of slot, and the write to CMD among the writes. -/
theorem acceptedCommandBecomesPending : Obligations.AcceptedCommandBecomesPending := by
  intro s idle nonePending
  refine ⟨step_of_idle_nil nonePending, fun rest => step_of_idle_cons nonePending, fun off rest inbox => ?_,
    fun off x rest => step_of_idle_cons nonePending, fun off v rest row inbox => ?_⟩
  · rw [step_of_idle_cons nonePending inbox, ← memRead_pending_inbox off s s.pending rest]
    rfl
  · obtain ⟨n, pos, write⟩ := memWrite_cmd (s := { s with inbox := rest }) idle row v
    exact ⟨n, pos, (step_of_idle_cons nonePending inbox).trans (congrArg Host.Outcome.next write)⟩

end Sys2Proof.Machine
end

section
/-! PROOFS. Command words (R80 to R85): decoding and encoding undo each other on the well-formed commands, and their words
are the legal ones. -/

namespace Sys2Proof.Machine

/-! ### From a command to its word and back -/

theorem decode_append (arg op : Byte) : decode ((0 : Half) ++ arg ++ op) = decodeOpcode op arg := by
  obtain ⟨hop, harg, hrsv⟩ := Laws.EncodedFields.fields_of_append arg op
  rw [decode, if_pos hrsv, hop, harg]

/-- The word of an ill-formed command, a ROUND or KMIX with an index of 12 or more, is refused by name (R81 item 4). -/
theorem decode_encode (i : Instr) :
    decode (encode i) = if i.wf then .ok i else .error .argumentOutOfRange := by
  rw [encode, decode_append]
  cases i with
  | round k | kmix k =>
    by_cases le : k.toNat ≤ 11 <;> simp [opcode, argument, decodeOpcode, decodeIndexed, Instr.wf, le]
  | _ => rfl

/-- Settles O1: the well-formed case of `decode_encode`. -/
theorem decodeOfEncodeIsTheCommand : Obligations.DecodeOfEncodeIsTheCommand :=
  fun i wf => (decode_encode i).trans (if_pos wf)

/-! ### From a word to its command and back -/

theorem decodePlain_eq_ok {arg : Byte} {i j : Instr} (h : decodePlain arg i = .ok j) : arg = 0 ∧ i = j := by
  unfold decodePlain at h
  split at h
  · next zero => cases h; exact ⟨zero, rfl⟩
  · cases h

theorem decodeIndexed_eq_ok {arg : Byte} {i j : Instr} (h : decodeIndexed arg i = .ok j) : arg.toNat ≤ 11 ∧ i = j := by
  unfold decodeIndexed at h
  split at h
  · next le => cases h; exact ⟨le, rfl⟩
  · cases h

/-- The rows of the opcode map, read from right to left (R82). -/
theorem decodeOpcode_eq_ok {op arg : Byte} {i : Instr} (h : decodeOpcode op arg = .ok i) :
    i.wf = true ∧ opcode i = op ∧ argument i = arg := by
  unfold decodeOpcode at h
  split at h
  -- EXPAND takes any ARG; ROUND and KMIX take an index; the last arm is the reserved opcodes.
  case h_3 hop => cases h; exact ⟨rfl, (BitVec.eq_of_toNat_eq hop).symm, rfl⟩
  case h_8 hop | h_12 hop =>
    obtain ⟨le, rfl⟩ := decodeIndexed_eq_ok h
    exact ⟨decide_eq_true le, (BitVec.eq_of_toNat_eq hop).symm, rfl⟩
  case h_16 => cases h
  all_goals
    next hop =>
    obtain ⟨rfl, rfl⟩ := decodePlain_eq_ok h
    exact ⟨rfl, (BitVec.eq_of_toNat_eq hop).symm, rfl⟩

/-- No bit lies outside the three fields of a word (R80). -/
theorem append_fields (v : Word) : rsvField v ++ argField v ++ opField v = v := by
  unfold rsvField argField opField
  ext i hi
  grind

theorem encode_of_decode {v : Word} {i : Instr} (h : decode v = .ok i) : i.wf = true ∧ encode i = v := by
  unfold decode at h
  split at h
  · next hrsv =>
    obtain ⟨wf, hop, harg⟩ := decodeOpcode_eq_ok h
    refine ⟨wf, ?_⟩
    rw [encode, hop, harg, ← hrsv, append_fields]
  · cases h

/-- Settles O2: the fields of the word are those of its command, and there is nothing else in it. -/
theorem encodeOfDecodeIsTheWord : Obligations.EncodeOfDecodeIsTheWord := fun _ _ => encode_of_decode

/-- The decoder answers a command at its word alone, and only where it is well formed (R84). -/
theorem decode_eq_ok_iff {v : Word} {i : Instr} : decode v = .ok i ↔ i.wf = true ∧ encode i = v := by
  refine ⟨encode_of_decode, ?_⟩
  rintro ⟨wf, rfl⟩
  exact decodeOfEncodeIsTheCommand i wf

/-! ### The legal words (R81) -/

theorem opcode_mem_opcodes (i : Instr) : (opcode i).toNat ∈ opcodes := by
  cases i <;> simp [opcode, opcodes]

/-- ARG is zero on an opcode that does not use it (R83). -/
theorem argument_eq_zero {i : Instr} (unused : (opcode i).toNat ∉ [0x10, 0x30, 0x34]) : argument i = 0 := by
  cases i with
  | expand | round | kmix => exact absurd (by simp [opcode]) unused
  | _ => rfl

theorem wf_iff_argument_le (i : Instr) :
    i.wf = true ↔ ((opcode i).toNat ∈ [0x30, 0x34] → (argument i).toNat ≤ 11) := by
  cases i <;> simp [Instr.wf, opcode, argument]

theorem encode_opcode_toNat (i : Instr) : (encode i).toNat % 256 = (opcode i).toNat := by
  rw [encode_toNat]
  omega

theorem encode_argument_toNat (i : Instr) : (encode i).toNat / 256 % 256 = (argument i).toNat := by
  rw [encode_toNat]
  omega

theorem encode_reserved_toNat (i : Instr) : (encode i).toNat / 65536 = 0 := by
  rw [encode_toNat]
  omega

theorem legal_encode_iff (i : Instr) : Legal (encode i) ↔ i.wf = true := by
  rw [Legal, encode_opcode_toNat, encode_argument_toNat, wf_iff_argument_le]
  refine ⟨fun ⟨_, _, _, le⟩ => le, fun le => ⟨encode_reserved_toNat i, opcode_mem_opcodes i, fun unused => ?_, le⟩⟩
  rw [argument_eq_zero unused]
  rfl

/-- The commands in the order of `opcodes`, with `arg` in those that take one. -/
def commandsWith (arg : Byte) : List Instr :=
  [.nop, .clear, .expand arg, .ctrrst, .wtrans, .subw, .rotw, .round arg, .encrypt, .perm, .subb, .kmix arg, .ksblk,
    .xstart, .xblock]

theorem opcodes_eq_map (arg : Byte) : opcodes = (commandsWith arg).map fun i => (opcode i).toNat := rfl

theorem argument_of_mem_commandsWith {arg : Byte} {i : Instr} (mem : i ∈ commandsWith arg)
    (used : (opcode i).toNat ∈ [0x10, 0x30, 0x34]) : argument i = arg := by
  cases i <;> simp_all [commandsWith, opcode, argument]

/-- The command is the one of the word's opcode in `commandsWith`, with the word's own ARG. -/
theorem exists_encode_of_legal {v : Word} (legal : Legal v) : ∃ i, encode i = v := by
  obtain ⟨reserved, op, unused, _⟩ := legal
  rw [opcodes_eq_map (argField v), List.mem_map] at op
  obtain ⟨i, mem, hop⟩ := op
  have harg : (argument i).toNat = v.toNat / 256 % 256 := by
    by_cases used : (opcode i).toNat ∈ [0x10, 0x30, 0x34]
    · rw [argument_of_mem_commandsWith mem used, argField_toNat]
    · rw [argument_eq_zero used, unused (hop ▸ used)]
      rfl
  refine ⟨i, BitVec.eq_of_toNat_eq ?_⟩
  rw [encode_toNat, harg, hop]
  omega

theorem decode_ok_iff_legal (v : Word) : (∃ i, decode v = .ok i) ↔ Legal v := by
  constructor
  · rintro ⟨i, hi⟩
    obtain ⟨wf, rfl⟩ := encode_of_decode hi
    exact (legal_encode_iff i).mpr wf
  · intro legal
    obtain ⟨i, rfl⟩ := exists_encode_of_legal legal
    exact ⟨i, decodeOfEncodeIsTheCommand i ((legal_encode_iff i).mp legal)⟩

/-! ### The commit of a word -/

theorem commitWord_of_decode {v : Word} {i : Instr} (h : decode v = .ok i) (s : State) : commitWord v s = exec i s := by
  rcases commitWord_cases v s with ⟨j, hj, commit⟩ | ⟨illegal, _⟩
  · rw [h] at hj
    cases hj
    exact commit
  · exact absurd h (illegal i)

theorem commitWord_of_not_legal {v : Word} (illegal : ¬ Legal v) (s : State) :
    commitWord v s = .next (afterError 6 s) := by
  rcases commitWord_cases v s with ⟨i, hi, _⟩ | ⟨_, commit⟩
  · exact absurd ((decode_ok_iff_legal v).mp ⟨i, hi⟩) illegal
  · exact commit

theorem execExpand_of_ne {len : Byte} (ne : len ≠ 16) (s : State) : execExpand len s = .next (afterError 1 s) := by
  rw [execExpand, if_pos ne]
  rfl

/-- Settles O3: the words of the well-formed commands are the legal ones, and every EXPAND is well formed. -/
theorem legalWordsAreExactlyTheDecodedOnes : Obligations.LegalWordsAreExactlyTheDecodedOnes := by
  have decodeExpand (arg : Byte) : decode (encode (.expand arg)) = .ok (.expand arg) :=
    decodeOfEncodeIsTheCommand _ rfl
  exact ⟨decode_ok_iff_legal, fun _ s illegal => commitWord_of_not_legal illegal s, decodeExpand,
    fun arg s ne => (commitWord_of_decode (decodeExpand arg) s).trans (execExpand_of_ne ne s)⟩

/-- Settles O4: but for the last, the words are those of `encode`, ROUND 12 being ill-formed. -/
theorem sampleWordsDecode : Obligations.SampleWordsDecode :=
  ⟨decode_encode .nop, decode_encode (.expand 16), decode_encode .rotw, decode_encode (.round 11),
    decode_encode (.kmix 5), decode_encode .xblock, decode_encode (.round 12), rfl⟩

end Sys2Proof.Machine
end

section
/-! PROOFS. A read of a host program (R86): what the host's names then hold, and the one step in which it is made. -/

namespace Sys2Proof.Machine

@[simp] theorem nameValue_setName_same (names : List (Nat × Word)) (n : Nat) (v : Word) :
    nameValue (setName names n v) n = v := by
  simp [setName, nameValue]

theorem nameValue_filter_ne {m n : Nat} (ne : m ≠ n) (names : List (Nat × Word)) :
    nameValue (names.filter fun e => e.1 != n) m = nameValue names m := by
  induction names with
  | nil => rfl
  | cons e rest ih =>
    by_cases same : e.1 = n
    · simp [same, nameValue, ne.symm, ih]
    · simp [same, nameValue, ih]

theorem nameValue_setName_ne {m n : Nat} (ne : m ≠ n) (names : List (Nat × Word)) (v : Word) :
    nameValue (setName names n v) m = nameValue names m := by
  simp [setName, nameValue, ne.symm, nameValue_filter_ne ne]

/-- No register shows PENDING (R41). -/
theorem readReg_countDown (r : Reg) (s : State) : readReg r (countDown s) = readReg r s := by
  rw [countDown_eq]
  cases r <;> rfl

/-- With no commit due, a read that the host presents is answered with the register, and the program goes on (R65, R86). -/
theorem hostStep_read {h : HostState} {r : Reg} {n : Nat} {rest : List HostTurn}
    (op : h.program[h.pc]? = some (.rd r n)) (notDue : ∀ v, h.core.pending ≠ some ⟨v, 0⟩) (inbox : h.core.inbox = [])
    (turns : h.turns = .proceeds :: rest) :
    hostStep h = .next (hostEffect (.rd r n) (readReg r h.core)
      { h with core := recordReply (readReg r h.core) (countDown h.core), turns := rest }) := by
  obtain ⟨next, notLocal⟩ := nextAccess_bus op rfl
  have emptied : { countDown h.core with inbox := [] } = countDown h.core := by
    rw [countDown_eq, inbox.symm]
  rcases hostStep_turn notDue inbox with ⟨_, _, isLocal, _⟩ | ⟨_, cycle⟩
  · rw [notLocal] at isLocal
    cases isLocal
  · rw [cycle, next, turns, servePort_cons rfl]
    simp [turnSlot, serveSlot, serveAccess, withCore, afterCycle, turns, emptied, readReg_countDown]

/-- Settles O60: the read is one step, which counts down, records the reply and sets the name. -/
theorem hostReadGivesTheNameTheRegister : Obligations.HostReadGivesTheNameTheRegister := by
  intro h r n rest op notDue inbox turns
  refine ⟨_, hostStep_read op notDue inbox turns, nameValue_setName_same _ _ _, rfl, rfl, rfl,
    fun m ne => nameValue_setName_ne ne _ _, ?_, fun nonePending => ?_, fun v c waiting => ?_⟩
  · rw [hostEffect_core, countDown_eq]
    rfl
  · rw [hostEffect_core, countDown_none nonePending]
    exact nonePending
  · rw [hostEffect_core, countDown_pending waiting]
    rfl

end Sys2Proof.Machine
end

section
/-! PROOFS. The word commands (R110 to R112): the bytes of their results. -/

namespace Sys2Proof.Machine

/-- The normal end of a command, in the terms of the statements (R200). -/
theorem commitOk_eq_afterOk (s : State) : commitOk s = .next (afterOk s) := rfl

/-- R103: byte 0 leaves at the top and comes back at the bottom. -/
theorem rotWord_eq_append (w : Word) : rotWord w = w.extractLsb' 0 24 ++ w.extractLsb' 24 8 := by
  unfold rotWord wordByte
  ext i hi
  grind

/-- Bytes of a rotated word (R103). -/
theorem wordByte_rotWord (w : Word) {j : Nat} (hj : j < 4) :
    wordByte (rotWord w) j = wordByte w ((j + 1) % 4) := by
  rw [rotWord, wordByte_append _ _ _ _ hj]
  interval_cases j <;> rfl

/-- Bytes of a substituted word (R104). -/
theorem wordByte_subWord (w : Word) {j : Nat} (hj : j < 4) : wordByte (subWord w) j = sbox (wordByte w j) :=
  wordByte_wordOf _ hj

/-- Bytes of a transformed word (R105). -/
theorem wordByte_wordTransform (w : Word) {j : Nat} (hj : j < 4) :
    wordByte (wordTransform w) j = sbox (wordByte w ((j + 1) % 4)) ^^^ wordByte 0xFF000000 j := by
  rw [wordTransform, wordByte_xor, wordByte_subWord _ hj, wordByte_rotWord _ hj]

/-- R105 in byte form: the constant of step (3) is 0xFF in byte 0 and zero in the others. -/
theorem wordTransform_eq_append (w : Word) :
    wordTransform w =
      (sbox (wordByte w 1) ^^^ 0xFF) ++ sbox (wordByte w 2) ++ sbox (wordByte w 3) ++ sbox (wordByte w 0) := by
  refine word_ext fun j hj => ?_
  rw [wordByte_wordTransform w hj, wordByte_append _ _ _ _ hj]
  interval_cases j
  · rfl
  all_goals exact BitVec.xor_zero

/-- Settles O35: the rotation by bytes is the one by bits. -/
theorem rotwRotatesTheWordByOneByte : Obligations.RotwRotatesTheWordByOneByte := by
  refine ⟨decode_encode .rotw, fun s => ?_⟩
  rw [← rotWord_eq_append]
  exact commitOk_eq_afterOk _

/-- Settles O36. -/
theorem subwSubstitutesEachByte : Obligations.SubwSubstitutesEachByte :=
  ⟨decode_encode .subw, fun s => ⟨subWord s.win, commitOk_eq_afterOk _, fun _ hj => wordByte_subWord s.win hj⟩⟩

/-- Settles O37: WOUT is `wordTransform`, in its byte form. -/
theorem wtransIsTheWordTransform : Obligations.WtransIsTheWordTransform := by
  refine ⟨decode_encode .wtrans, fun s => ?_⟩
  rw [← wordTransform_eq_append]
  exact commitOk_eq_afterOk _

end Sys2Proof.Machine
end

section
/-! PROOFS. The key schedule and EXPAND (R107, R113): the loop only ever adds the word that the recurrence asks for. -/

namespace Sys2Proof.Machine

/-- What the recurrence of R107 gives for word `i`, read from the words before it. -/
def recurrenceWord (words : List Word) (i : Nat) : Word :=
  if i % 4 = 0 then wordTransform (words.getD (i - 1) 0) ^^^ words.getD (i - 4) 0
  else words.getD (i - 1) 0 ^^^ words.getD (i - 4) 0

/-- Every word after the seed is the one of the recurrence (R107). -/
def FollowsRecurrence (words : List Word) : Prop :=
  ∀ i, 4 ≤ i → i < words.length → words.getD i 0 = recurrenceWord words i

theorem nextScheduleWord_eq (known : List Word) : nextScheduleWord known = recurrenceWord known known.length := rfl

theorem recurrenceWord_append {i : Nat} {words : List Word} (pos : 0 < i) (le : i ≤ words.length) (more : List Word) :
    recurrenceWord (words ++ more) i = recurrenceWord words i := by
  have previous : i - 1 < words.length := by omega
  have fourBack : i - 4 < words.length := by omega
  rw [recurrenceWord, List.getD_append _ _ _ _ previous, List.getD_append _ _ _ _ fourBack, recurrenceWord]

/-- A turn of the loop keeps the recurrence. -/
theorem FollowsRecurrence.append_next {known : List Word} (follows : FollowsRecurrence known) :
    FollowsRecurrence (known ++ [nextScheduleWord known]) := by
  intro i four lt
  rw [List.length_append, List.length_singleton] at lt
  rw [recurrenceWord_append (by omega) (by omega)]
  rcases Nat.lt_succ_iff_lt_or_eq.mp lt with old | rfl
  · rw [List.getD_append _ _ _ _ old, follows i four old]
  · rw [← nextScheduleWord_eq]
    simp

theorem FollowsRecurrence.scheduleLoop {known : List Word} (follows : FollowsRecurrence known) (n : Nat) :
    FollowsRecurrence (scheduleLoop n known) := by
  induction n generalizing known with
  | zero => exact follows
  | succ m ih => exact ih follows.append_next

/-- The four words of a seed follow the recurrence: it asks nothing of them. -/
theorem followsRecurrence_seed (seed : Vector Word 4) : FollowsRecurrence seed.toList := by
  intro i four lt
  rw [Vector.length_toList] at lt
  omega

/-- The entries of a key schedule are the words of the loop (R107). -/
theorem kswAt_keySchedule (seed : Vector Word 4) {i : Nat} (hi : i < 24) :
    kswAt (keySchedule seed) i = (scheduleLoop 20 seed.toList).getD i 0 := by
  simp [kswAt, keySchedule, hi]

theorem kswAt_keySchedule_seed (seed : Vector Word 4) (i : Fin 4) : kswAt (keySchedule seed) i = seed[i] := by
  rw [kswAt, Vector.getElem?_eq_getElem (by omega), Option.getD_some, keySchedule_getElem_seed seed i.isLt]
  rfl

/-- R107: the recurrence, over the entries of the file. -/
theorem kswAt_keySchedule_recurrence (seed : Vector Word 4) {i : Nat} (four : 4 ≤ i) (hi : i < 24) :
    kswAt (keySchedule seed) i =
      if i % 4 = 0 then wordTransform (kswAt (keySchedule seed) (i - 1)) ^^^ kswAt (keySchedule seed) (i - 4)
      else kswAt (keySchedule seed) (i - 1) ^^^ kswAt (keySchedule seed) (i - 4) := by
  have length : (scheduleLoop 20 seed.toList).length = 24 := by
    rw [scheduleLoop_length, Vector.length_toList]
  rw [kswAt_keySchedule seed hi, kswAt_keySchedule seed (show i - 1 < 24 by omega),
    kswAt_keySchedule seed (show i - 4 < 24 by omega)]
  exact (followsRecurrence_seed seed).scheduleLoop 20 i four (length ▸ hi)

/-- Settles O34: KSW is `keySchedule`, which has the seed first and then follows the recurrence. -/
theorem expandRunsTheKeySchedule : Obligations.ExpandRunsTheKeySchedule := by
  refine ⟨decode_encode (.expand 16), fun len => decode_append len 0x10, fun s => ⟨?_, fun len ne => ?_⟩⟩
  · exact ⟨keySchedule s.seed, commitOk_eq_afterOk _, kswAt_keySchedule_seed s.seed,
      fun i => kswAt_keySchedule_recurrence s.seed⟩
  · exact execExpand_of_ne ne s

end Sys2Proof.Machine
end

section
/-! PROOFS. The substitution table (R100 to R102). The affine map can be undone, which leads from each entry back to an
inverse in GF(2^8); the inverse of the inverse is the byte itself, so no two bytes share an entry. -/

namespace Sys2Proof.Machine

/-- What undoes `affine`. -/
def unaffine (v : Byte) : Byte := v.rotateLeft 1 ^^^ v.rotateLeft 3 ^^^ v.rotateLeft 6 ^^^ 0x05

theorem affine_unaffine : ∀ v : Byte, affine (unaffine v) = v := by decide +kernel

/-- `inv(b)` of R102, as the table holds it. -/
def tableInverse (b : Byte) : Byte := unaffine (sbox b)

theorem sbox_eq_affine (b : Byte) : sbox b = affine (tableInverse b) := (affine_unaffine (sbox b)).symm

/-- The table holds the inverse of each byte in GF(2^8), and 0 for 0: the check that R102 makes entry for entry. -/
theorem gfMul_tableInverse : ∀ b : Byte, b = 0 ∧ tableInverse b = 0 ∨ gfMul 8 b (tableInverse b) = 1 := by
  decide +kernel

/-- Settles O50: `c` is the inverse that the table holds. -/
theorem sboxIsTheAffineImageOfTheInverse : Obligations.SboxIsTheAffineImageOfTheInverse :=
  fun b => ⟨tableInverse b, gfMul_tableInverse b, sbox_eq_affine b⟩

theorem tableInverse_involutive : Function.Involutive tableInverse := by
  unfold Function.Involutive
  decide +kernel

/-- The byte is found again from its entry: undo the affine map, then take the inverse. -/
theorem sbox_injective : Function.Injective sbox :=
  Function.Injective.of_comp (f := unaffine) tableInverse_involutive.injective

theorem sbox_bijective : Function.Bijective sbox := Finite.injective_iff_bijective.mp sbox_injective

theorem sbox_ne_self : ∀ b : Byte, sbox b ≠ b := by decide +kernel

/-- Settles O49. -/
theorem sboxIsABijectionWithoutFixedPoint : Obligations.SboxIsABijectionWithoutFixedPoint :=
  ⟨fun _ _ same => sbox_injective same, sbox_bijective.surjective, sbox_ne_self⟩

end Sys2Proof.Machine
end

section
/-! PROOFS. The round engine's steps on a block (R140 to R146), byte by byte, and the block commands that run them (R150 to
R154): one equation for each way a command can end. -/

namespace Sys2Proof.Machine

/-! ### The bytes of a round -/

/-- R140: the table PT, lowered by one. Past its end both sides are 0. -/
theorem sigma_eq_getD (i : Nat) : sigma i = ([5, 0, 2, 7, 1, 6, 4, 3] : List Nat).getD i 0 :=
  (List.getD_map (l := permutationTable) (d := 0) (n := i) (· - 1)).symm

/-- Bytes of the block after a round (R145). -/
theorem blockByte_blockRound (x rk : Block) {i : Nat} (hi : i < 8) :
    blockByte (blockRound x rk) i = sbox (blockByte x (sigma i)) ^^^ blockByte rk i := by
  rw [blockRound, keyMix, blockByte_xor, blockByte_subBlock _ hi, blockByte_permute _ hi]

/-- R146: the last round of a run of rounds, taken off. -/
theorem blockRounds_succ_last (ksw : Vector Word 24) (first count : Nat) (x : Block) :
    blockRounds ksw first (count + 1) x =
      blockRound (blockRounds ksw first count x) (roundKey ksw (first + count)) := by
  induction count generalizing first x with
  | zero => rfl
  | succ n ih => rw [blockRounds, ih, blockRounds, Nat.succ_add_eq_add_succ]

/-! ### How the block commands end -/

/-- A command that needs round keys, where they are held. -/
theorem withKey_of_keyed {s : State} (keyed : Keyed s) (run : Host.Outcome State Fault Refusal) :
    withKey s run = run := if_neg keyed

/-- R216: in NOKEY it raises NoKey. -/
theorem withKey_of_noKey {s : State} (noKey : s.stream = .noKey) (run : Host.Outcome State Fault Refusal) :
    withKey s run = .next (afterError 5 s) := if_pos noKey

/-- The checks that ROUND and KMIX share: the index (log 11), then the round keys (R152, R153, R219). -/
def withIndexAndKey (k : Byte) (s : State) (run : Host.Outcome State Fault Refusal) : Host.Outcome State Fault Refusal :=
  if k.toNat > 11 then raiseError .illegalCommand s else withKey s run

theorem withIndexAndKey_of_keyed {k : Byte} {s : State} (le : k.toNat ≤ 11) (keyed : Keyed s)
    (run : Host.Outcome State Fault Refusal) : withIndexAndKey k s run = run :=
  (if_neg (Nat.not_lt.mpr le)).trans (withKey_of_keyed keyed run)

theorem withIndexAndKey_of_noKey {k : Byte} {s : State} (le : k.toNat ≤ 11) (noKey : s.stream = .noKey)
    (run : Host.Outcome State Fault Refusal) : withIndexAndKey k s run = .next (afterError 5 s) :=
  (if_neg (Nat.not_lt.mpr le)).trans (withKey_of_noKey noKey run)

theorem withIndexAndKey_of_ge {k : Byte} (ge : 12 ≤ k.toNat) (s : State) (run : Host.Outcome State Fault Refusal) :
    withIndexAndKey k s run = .next (afterError 6 s) := if_pos ge

/-- The normal end of a block command whose result is `b`. -/
def afterBlock (b : Block) (s : State) : State := afterOk { s with bout := b }

@[simp] theorem afterBlock_bout (b : Block) (s : State) : (afterBlock b s).bout = b := rfl
@[simp] theorem afterBlock_ksw (b : Block) (s : State) : (afterBlock b s).ksw = s.ksw := rfl
@[simp] theorem afterBlock_stream (b : Block) (s : State) : (afterBlock b s).stream = s.stream := rfl

theorem exec_perm (s : State) : exec .perm s = .next (afterBlock (permute s.bin) s) := rfl

theorem exec_subb (s : State) : exec .subb s = .next (afterBlock (subBlock s.bin) s) := rfl

theorem exec_kmix (k : Byte) (s : State) :
    exec (.kmix k) s = withIndexAndKey k s
      (.next (afterBlock (keyMix s.bin (roundKey s.ksw k.toNat)) s)) := rfl

theorem exec_round (k : Byte) (s : State) :
    exec (.round k) s = withIndexAndKey k s
      (.next (afterBlock (blockRound s.bin (roundKey s.ksw k.toNat)) s)) := rfl

theorem exec_encrypt (s : State) :
    exec .encrypt s = withKey s (.next (afterBlock (blockCipher s.ksw s.bin) s)) := rfl

/-! ### The commands -/

/-- Settles O38: BOUT is `permute` of BIN. -/
theorem permMovesEachByteBySigma : Obligations.PermMovesEachByteBySigma := by
  refine ⟨decode_encode .perm, fun s => ⟨permute s.bin, exec_perm s, fun i hi => ?_⟩⟩
  rw [blockByte_permute _ hi, sigma_eq_getD]

/-- Settles O39: BOUT is `subBlock` of BIN. -/
theorem subbSubstitutesEachByte : Obligations.SubbSubstitutesEachByte :=
  ⟨decode_encode .subb, fun s => ⟨subBlock s.bin, exec_subb s, fun _ hi => blockByte_subBlock s.bin hi⟩⟩

/-- Settles O40: past the checks that KMIX shares with ROUND, BOUT is `keyMix` of BIN. -/
theorem kmixXorsTheRoundKey : Obligations.KmixXorsTheRoundKey := by
  refine ⟨fun k le => decodeOfEncodeIsTheCommand (.kmix k) (decide_eq_true le), fun k s => ?_⟩
  rw [exec_kmix]
  exact ⟨fun le keyed => withIndexAndKey_of_keyed le keyed _, fun le noKey => withIndexAndKey_of_noKey le noKey _,
    fun ge => withIndexAndKey_of_ge ge s _⟩

/-- Settles O41: past the checks that ROUND shares with KMIX, BOUT is `blockRound` of BIN. -/
theorem roundMapsEachByte : Obligations.RoundMapsEachByte := by
  refine ⟨fun k le => decodeOfEncodeIsTheCommand (.round k) (decide_eq_true le), fun k s => ?_⟩
  rw [exec_round]
  refine ⟨fun le keyed => ⟨_, withIndexAndKey_of_keyed le keyed _, fun i hi => ?_⟩,
    fun le noKey => withIndexAndKey_of_noKey le noKey _, fun ge => withIndexAndKey_of_ge ge s _⟩
  rw [blockByte_blockRound _ _ hi, sigma_eq_getD, roundKey]

/-- Settles O42: `y r` is the block after the first `r` rounds. -/
theorem encryptIsTwelveRounds : Obligations.EncryptIsTwelveRounds := by
  refine ⟨decode_encode .encrypt, fun s => ?_⟩
  rw [exec_encrypt, blockCipher]
  refine ⟨fun keyed => ⟨(blockRounds s.ksw 0 · s.bin), rfl, fun r _ => ?_, withKey_of_keyed keyed _⟩,
    fun noKey => withKey_of_noKey noKey _⟩
  have last := blockRounds_succ_last s.ksw 0 r s.bin
  rwa [Nat.zero_add, roundKey] at last

/-! ### Chains of commands -/

/-- BOUT copied to BIN, as the host does between two commands (R153). -/
def boutToBin (s : State) : State := { s with bin := s.bout }

@[simp] theorem boutToBin_bin (s : State) : (boutToBin s).bin = s.bout := rfl
@[simp] theorem boutToBin_bout (s : State) : (boutToBin s).bout = s.bout := rfl
@[simp] theorem boutToBin_ksw (s : State) : (boutToBin s).ksw = s.ksw := rfl
@[simp] theorem boutToBin_stream (s : State) : (boutToBin s).stream = s.stream := rfl

/-- Settles O55: `blockRound` is made of the three steps, and PERM and SUBB leave STATE and KSW alone. -/
theorem roundIsPermThenSubbThenKmix : Obligations.RoundIsPermThenSubbThenKmix := by
  intro k s le keyed
  have perm := exec_perm s
  generalize tEq : afterBlock (permute s.bin) s = t at perm
  have subb := exec_subb (boutToBin t)
  generalize uEq : afterBlock (subBlock (boutToBin t).bin) (boutToBin t) = u at subb
  have uKeyed : Keyed (boutToBin u) := by
    rwa [Keyed, boutToBin_stream, ← uEq, afterBlock_stream, boutToBin_stream, ← tEq, afterBlock_stream]
  have kmix := (exec_kmix k (boutToBin u)).trans (withIndexAndKey_of_keyed le uKeyed _)
  have round := (exec_round k s).trans (withIndexAndKey_of_keyed le keyed _)
  refine ⟨t, u, _, _, perm, subb, kmix, round, ?_⟩
  simp only [afterBlock_bout, boutToBin_bin, boutToBin_ksw, afterBlock_ksw, ← uEq, ← tEq, blockRound]

/-- The state after ROUND k with BOUT copied to BIN, where keys are held (R153). -/
def afterRound (k : Nat) (s : State) : State := boutToBin (afterBlock (blockRound s.bin (roundKey s.ksw k)) s)

theorem runRounds_succ {first : Nat} (le : first ≤ 11) {s : State} (keyed : Keyed s) (count : Nat) :
    runRounds first (count + 1) s = runRounds (first + 1) count (afterRound first s) := by
  have index : (BitVec.ofNat 8 first).toNat = first := by
    rw [BitVec.toNat_ofNat]
    omega
  rw [runRounds, exec_round, index, withIndexAndKey_of_keyed (index.trans_le le) keyed]
  exact if_pos rfl

/-- At least one ROUND, each with an index in range: BOUT holds the block after as many rounds (R146, R153). -/
theorem runRounds_bout {first count : Nat} (le : first + count ≤ 11) {s : State} (keyed : Keyed s) :
    ∃ t, runRounds first (count + 1) s = some t ∧ t.bout = blockRounds s.ksw first (count + 1) s.bin := by
  induction count generalizing first s with
  | zero => exact ⟨afterRound first s, runRounds_succ le keyed 0, rfl⟩
  | succ n ih =>
    rw [runRounds_succ (by omega) keyed]
    exact ih (s := afterRound first s) (by omega) keyed

/-- Settles O56: both leave the block after rounds 0 to 11. -/
theorem twelveRoundCommandsEqualEncrypt : Obligations.TwelveRoundCommandsEqualEncrypt := by
  intro s keyed
  obtain ⟨t, run, bout⟩ := runRounds_bout (first := 0) (count := 11) le_rfl keyed
  exact ⟨t, _, run, (exec_encrypt s).trans (withKey_of_keyed keyed _), bout⟩

end Sys2Proof.Machine
end

section
/-! PROOFS. The cipher as a map on blocks (R142, R148, R149): where each byte goes under several permutations or rounds, and
that no two blocks go to one. -/

namespace Sys2Proof.Machine

/-! ### The permutation, several times -/

theorem sigma_iterate_lt (n : Nat) {i : Nat} (hi : i < 8) : sigma^[n] i < 8 := by
  induction n with
  | zero => exact hi
  | succ m ih => exact Function.iterate_succ_apply' sigma m i ▸ sigma_lt ih

theorem blockByte_iterate_permute (n : Nat) (x : Block) {i : Nat} (hi : i < 8) :
    blockByte (permute^[n] x) i = blockByte x (sigma^[n] i) := by
  induction n generalizing x with
  | zero => rfl
  | succ m ih =>
    rw [Function.iterate_succ_apply, ih, blockByte_permute _ (sigma_iterate_lt m hi), Function.iterate_succ_apply']

theorem isPeriodicPt_sigma_ten {i : Nat} (hi : i < 8) : Function.IsPeriodicPt sigma 10 i := by
  unfold Function.IsPeriodicPt Function.IsFixedPt
  interval_cases i <;> rfl

/-- R142: byte 0 is on a cycle of five bytes. -/
theorem minimalPeriod_sigma_zero : Function.minimalPeriod sigma 0 = 5 :=
  have := Fact.mk Nat.prime_five
  Function.minimalPeriod_eq_prime (show sigma^[5] 0 = 0 by decide) (show ¬ sigma 0 = 0 by decide)

/-- R142: byte 3 is on a cycle of two bytes. -/
theorem minimalPeriod_sigma_three : Function.minimalPeriod sigma 3 = 2 :=
  have := Fact.mk Nat.prime_two
  Function.minimalPeriod_eq_prime (show sigma^[2] 3 = 3 by decide) (show ¬ sigma 3 = 3 by decide)

/-- C1: the lengths of the two cycles divide the number of times, and so does their product. -/
theorem ten_dvd_of_isPeriodicPt_sigma {n : Nat} (periodic : ∀ i < 8, Function.IsPeriodicPt sigma n i) : 10 ∣ n := by
  have five : 5 ∣ n := minimalPeriod_sigma_zero ▸ (periodic 0 (by decide)).minimalPeriod_dvd
  have two : 2 ∣ n := minimalPeriod_sigma_three ▸ (periodic 3 (by decide)).minimalPeriod_dvd
  omega

theorem permute_iterate_ten (x : Block) : permute^[10] x = x :=
  block_ext fun i hi => by rw [blockByte_iterate_permute 10 x hi, (isPeriodicPt_sigma_ten hi).eq]

/-- Each byte of this block is its own position. -/
theorem blockByte_positions {i : Nat} (hi : i < 8) : (blockByte 0x0001020304050607 i).toNat = i := by
  interval_cases i <;> rfl

theorem isPeriodicPt_sigma_of_permute {n : Nat} (fixed : permute^[n] 0x0001020304050607 = 0x0001020304050607) {i : Nat}
    (hi : i < 8) : Function.IsPeriodicPt sigma n i := by
  have bytes := congrArg (fun x => (blockByte x i).toNat) fixed
  simp only [blockByte_iterate_permute n _ hi, blockByte_positions hi, blockByte_positions (sigma_iterate_lt n hi)] at bytes
  exact bytes

/-- Settles O51: the block of positions shows where `σ` takes each of them. -/
theorem permutationHasOrderTen : Obligations.PermutationHasOrderTen := by
  refine ⟨permute_iterate_ten, fun n pos lt fixed => ?_⟩
  have dvd : 10 ∣ n := ten_dvd_of_isPeriodicPt_sigma fun i hi => isPeriodicPt_sigma_of_permute fixed hi
  exact absurd (Nat.le_of_dvd pos dvd) (Nat.not_le.mpr lt)

/-! ### No two blocks go to one -/

/-- Nine more permutations undo one (R142). -/
theorem permute_injective : Function.Injective permute :=
  Function.LeftInverse.injective (g := permute^[9]) permute_iterate_ten

theorem subBlock_injective : Function.Injective subBlock := by
  intro x y same
  refine block_ext fun i hi => sbox_injective ?_
  rw [← blockByte_subBlock x hi, same, blockByte_subBlock y hi]

theorem keyMix_injective (rk : Block) : Function.Injective fun x => keyMix x rk :=
  fun _ _ => (BitVec.xor_left_inj rk).mp

theorem blockRound_injective (rk : Block) : Function.Injective fun x => blockRound x rk :=
  (keyMix_injective rk).comp (subBlock_injective.comp permute_injective)

theorem blockRounds_injective (ksw : Vector Word 24) (first count : Nat) :
    Function.Injective (blockRounds ksw first count) := by
  induction count generalizing first with
  | zero => exact Function.injective_id
  | succ n ih => exact (ih (first + 1)).comp (blockRound_injective (roundKey ksw first))

/-- Settles O52: the blocks are finitely many, so a map that joins no two of them reaches all. -/
theorem cipherIsABijection : Obligations.CipherIsABijection :=
  fun ksw => Finite.injective_iff_bijective.mp (blockRounds_injective ksw 0 12)

/-! ### Each byte alone -/

/-- R149: output byte `i` of a run of rounds depends on one input byte, the one that `σ` leads to in as many turns. -/
theorem blockByte_blockRounds_congr (ksw : Vector Word 24) (first count : Nat) {x y : Block} {i : Nat} (hi : i < 8)
    (same : blockByte x (sigma^[count] i) = blockByte y (sigma^[count] i)) :
    blockByte (blockRounds ksw first count x) i = blockByte (blockRounds ksw first count y) i := by
  induction count generalizing first x y with
  | zero => exact same
  | succ n ih =>
    have lt : sigma^[n] i < 8 := sigma_iterate_lt n hi
    rw [Function.iterate_succ_apply'] at same
    refine ih (first + 1) ?_
    rw [blockByte_blockRound _ _ lt, blockByte_blockRound _ _ lt, same]

/-- The table of R149 undoes `τ`, the twelve turns of `σ`. -/
theorem tauInverse_sigma_iterate {i : Nat} (hi : i < 8) :
    ([4, 6, 2, 3, 5, 1, 0, 7] : List Nat).getD (sigma^[12] i) 0 = i := by
  interval_cases i <;> rfl

/-- Settles O53: `σ` leads to byte `j` in twelve turns from `τ⁻¹(j)` alone. -/
theorem cipherMovesEachByteAlone : Obligations.CipherMovesEachByteAlone := by
  intro ksw x y j _ same i hi elsewhere
  have ne : sigma^[12] i ≠ j := by
    rintro rfl
    exact elsewhere (tauInverse_sigma_iterate hi).symm
  exact blockByte_blockRounds_congr ksw 0 12 hi (same _ (sigma_iterate_lt 12 hi) ne)

end Sys2Proof.Machine
end

section
/-! PROOFS. The counter-mode commands (R185 to R188): the checks they share, in the order of R219, then one equation for each
way a command can end. -/

namespace Sys2Proof.Machine

/-! ### The shared checks -/

/-- The checks that KSBLK, XSTART and XBLOCK make first: the round keys, then the order of requests, which `wrong` breaks
(R216, R218). -/
def withSequence (wrong : Prop) [Decidable wrong] (s : State) (run : Host.Outcome State Fault Refusal) :
    Host.Outcome State Fault Refusal :=
  withKey s (if wrong then .next (afterError 7 s) else run)

/-- The check of KSBLK and XBLOCK before an emission (R215). -/
def unlessExhausted (s : State) (run : Host.Outcome State Fault Refusal) : Host.Outcome State Fault Refusal :=
  if s.stream = .exhausted then .next (afterError 4 s) else run

section Checks
variable {wrong : Prop} [Decidable wrong] {s : State}

theorem withSequence_of_noKey (noKey : s.stream = .noKey) (run : Host.Outcome State Fault Refusal) :
    withSequence wrong s run = .next (afterError 5 s) := withKey_of_noKey noKey _

theorem withSequence_of_wrong (keyed : Keyed s) (isWrong : wrong) (run : Host.Outcome State Fault Refusal) :
    withSequence wrong s run = .next (afterError 7 s) := (withKey_of_keyed keyed _).trans (if_pos isWrong)

theorem withSequence_of_right (keyed : Keyed s) (right : ¬ wrong) (run : Host.Outcome State Fault Refusal) :
    withSequence wrong s run = run := (withKey_of_keyed keyed _).trans (if_neg right)

theorem not_exhausted_of_canEmit (emits : CanEmit s) : s.stream ≠ .exhausted := by
  rcases emits with h | h <;> simp [h]

theorem keyed_of_exhausted (exhausted : s.stream = .exhausted) : Keyed s := by
  simp [Keyed, exhausted]

theorem withSequence_unlessExhausted_of_canEmit (emits : CanEmit s) (right : ¬ wrong)
    (run : Host.Outcome State Fault Refusal) : withSequence wrong s (unlessExhausted s run) = run :=
  (withSequence_of_right (keyed_of_canEmit emits) right _).trans (if_neg (not_exhausted_of_canEmit emits))

theorem withSequence_unlessExhausted_of_exhausted (exhausted : s.stream = .exhausted) (right : ¬ wrong)
    (run : Host.Outcome State Fault Refusal) :
    withSequence wrong s (unlessExhausted s run) = .next (afterError 4 s) :=
  (withSequence_of_right (keyed_of_exhausted exhausted) right _).trans (if_pos exhausted)

end Checks

/-! ### How the commands end -/

/-- The normal end of CTRRST (R185). -/
def afterCtrrst (s : State) : State := afterOk (restartStream (latchIv s))

/-- The normal end of KSBLK (R186). -/
def afterKsblk (s : State) : State := afterOk { advanceCounter s with bout := keystreamBlock s }

/-- The normal end of XSTART (R187). -/
def afterXstart (s : State) : State := afterOk { s with xrem := s.length }

/-- The normal end of XBLOCK (R188). -/
def afterXblock (s : State) : State :=
  afterOk { advanceCounter s with
    bout := (s.bin ^^^ keystreamBlock s) &&& leadingMask (chunkSize s)
    xrem := s.xrem - BitVec.ofNat 32 (chunkSize s) }

theorem exec_ctrrst (s : State) : exec .ctrrst s = withKey s (.next (afterCtrrst s)) := rfl

theorem exec_ksblk (s : State) :
    exec .ksblk s = withSequence (s.xrem ≠ 0) s (unlessExhausted s (.next (afterKsblk s))) := rfl

theorem exec_xstart (s : State) :
    exec .xstart s = withSequence (s.xrem ≠ 0) s
      (if blocksLeft s < (s.length.toNat + 7) / 8 then .next (afterError 3 s) else .next (afterXstart s)) := rfl

theorem exec_xblock (s : State) :
    exec .xblock s = withSequence (s.xrem = 0) s (unlessExhausted s (.next (afterXblock s))) := rfl

theorem exec_xstart_of_le {s : State} (keyed : Keyed s) (closed : s.xrem = 0)
    (fits : (s.length.toNat + 7) / 8 ≤ blocksLeft s) : exec .xstart s = .next (afterXstart s) := by
  rw [exec_xstart, withSequence_of_right keyed (not_not.mpr closed), if_neg (Nat.not_lt.mpr fits)]

theorem exec_xstart_of_gt {s : State} (keyed : Keyed s) (closed : s.xrem = 0)
    (tooLong : blocksLeft s < (s.length.toNat + 7) / 8) : exec .xstart s = .next (afterError 3 s) := by
  rw [exec_xstart, withSequence_of_right keyed (not_not.mpr closed), if_pos tooLong]

theorem exec_ksblk_of_canEmit {s : State} (emits : CanEmit s) (closed : s.xrem = 0) :
    exec .ksblk s = .next (afterKsblk s) := by
  rw [exec_ksblk, withSequence_unlessExhausted_of_canEmit emits (not_not.mpr closed)]

theorem exec_xblock_of_canEmit {s : State} (emits : CanEmit s) (isOpen : s.xrem ≠ 0) :
    exec .xblock s = .next (afterXblock s) := by
  rw [exec_xblock, withSequence_unlessExhausted_of_canEmit emits isOpen]

/-! ### The emission -/

theorem ctr_eq_last_or_lt (c : Half) : c = 0xFFFF ∨ c.toNat < 0xFFFF := by
  bv_omega

theorem ctr_ne_last_of_lt {c : Half} (lt : c.toNat < 0xFFFF) : c ≠ 0xFFFF := by
  rintro rfl
  exact absurd lt (by decide)

/-- R174: from the last counter value on CTR stays, and the stream is exhausted. -/
theorem advanceCounter_of_last {s : State} (last : s.ctr = 0xFFFF) :
    advanceCounter s = { s with stream := .exhausted } := if_pos last

/-- R173: before the last counter value CTR goes up by one. -/
theorem advanceCounter_of_ne {s : State} (ne : s.ctr ≠ 0xFFFF) :
    advanceCounter s = { s with ctr := s.ctr + 1, stream := .streaming } := if_neg ne

theorem advanceCounter_ctr_le (s : State) : (advanceCounter s).ctr.toNat ≤ s.ctr.toNat + 1 := by
  rcases ctr_eq_last_or_lt s.ctr with last | lt
  · rw [advanceCounter_of_last last]
    exact Nat.le_succ _
  · exact (advanceCounter_of_lt (Nat.succ_lt_succ lt)).2.le

/-- Masking off all but the first `min(8, n)` bytes cuts a session of `n` bytes in its block 0 (R188). -/
theorem and_leadingMask (x : Block) (n : Nat) : x &&& leadingMask (min 8 n) = clip n 0 x := by
  refine block_ext fun j hj => ?_
  rw [blockByte_and, blockByte_leadingMask _ hj, clip, blockByte_blockOf _ hj]
  by_cases inside : j < n
  · rw [if_pos (lt_min hj inside), if_pos (by omega)]
    exact BitVec.and_allOnes
  · rw [if_neg (by omega), if_neg (by omega)]
    exact BitVec.and_zero

theorem afterXblock_bout (s : State) : (afterXblock s).bout = clip s.xrem.toNat 0 (s.bin ^^^ keystreamBlock s) :=
  and_leadingMask _ _

theorem blockByte_clip (n i : Nat) (x : Block) {j : Nat} (hj : j < 8) :
    blockByte (clip n i x) j = if 8 * i + j < n then blockByte x j else 0 :=
  blockByte_blockOf _ hj

/-! ### The commands -/

/-- Settles O43. -/
theorem ctrrstRestartsTheStream : Obligations.CtrrstRestartsTheStream := by
  refine ⟨decode_encode .ctrrst, fun s => ?_⟩
  rw [exec_ctrrst]
  exact ⟨fun keyed => withKey_of_keyed keyed _, fun noKey => withKey_of_noKey noKey _⟩

/-- Settles O44: past the shared checks, by whether CTR is at its last value. -/
theorem ksblkEmitsOneKeystreamBlock : Obligations.KsblkEmitsOneKeystreamBlock := by
  refine ⟨decode_encode .ksblk, fun s => ⟨fun emits closed lt => ?_, fun emits closed last => ?_,
    fun noKey => withSequence_of_noKey noKey _, fun keyed isOpen => withSequence_of_wrong keyed isOpen _,
    fun exhausted closed => withSequence_unlessExhausted_of_exhausted exhausted (not_not.mpr closed) _⟩⟩
  · rw [exec_ksblk_of_canEmit emits closed, afterKsblk, advanceCounter_of_ne (ctr_ne_last_of_lt lt)]
    rfl
  · rw [exec_ksblk_of_canEmit emits closed, afterKsblk, advanceCounter_of_last last]
    rfl

/-- An exhausted stream has room for a session of no byte alone (R171, R187). -/
theorem blocksLeft_of_exhausted {s : State} (exhausted : s.stream = .exhausted) : blocksLeft s = 0 := by
  simp [blocksLeft, exhausted]

theorem afterXstart_of_length_zero {s : State} (closed : s.xrem = 0) (empty : s.length = 0) :
    afterXstart s = afterOk s :=
  congrArg (fun x => afterOk { s with xrem := x }) (empty.trans closed.symm)

/-- Settles O45: past the shared checks, by whether the length fits what the stream has left. -/
theorem xstartOpensASession : Obligations.XstartOpensASession := by
  refine ⟨decode_encode .xstart, fun s => ⟨fun emits closed fits => ?_, fun exhausted closed empty => ?_,
    fun noKey => withSequence_of_noKey noKey _, fun keyed isOpen => withSequence_of_wrong keyed isOpen _,
    fun emits closed tooLong => ?_, fun exhausted closed nonempty => ?_⟩⟩
  · rw [← blocksLeft_of_canEmit emits] at fits
    exact exec_xstart_of_le (keyed_of_canEmit emits) closed fits
  · rw [← afterXstart_of_length_zero closed empty]
    exact exec_xstart_of_le (keyed_of_exhausted exhausted) closed (by simp [empty])
  · rw [← blocksLeft_of_canEmit emits] at tooLong
    exact exec_xstart_of_gt (keyed_of_canEmit emits) closed tooLong
  · refine exec_xstart_of_gt (keyed_of_exhausted exhausted) closed ?_
    rw [blocksLeft_of_exhausted exhausted]
    bv_omega

/-- Settles O47: a fresh stream has all 65536 blocks left. -/
theorem freshStreamAdmits524288Bytes : Obligations.FreshStreamAdmits524288Bytes := by
  intro s init fresh closed
  have emits : CanEmit s := .inl init
  have left : blocksLeft s = 65536 := by rw [blocksLeft_of_canEmit emits, fresh]; rfl
  exact ⟨fun le => exec_xstart_of_le (keyed_of_canEmit emits) closed (by omega),
    fun gt => exec_xstart_of_gt (keyed_of_canEmit emits) closed (by omega)⟩

/-- The normal end of XBLOCK with every field it writes said in terms of the state before. -/
theorem afterXblock_eq (s : State) :
    afterXblock s = afterOk { s with
      bout := clip s.xrem.toNat 0 (s.bin ^^^ keystreamBlock s)
      xrem := s.xrem - BitVec.ofNat 32 (chunkSize s)
      ctr := if s.ctr = 0xFFFF then 0xFFFF else s.ctr + 1
      stream := if s.ctr = 0xFFFF then .exhausted else .streaming } := by
  rw [← and_leadingMask, afterXblock]
  by_cases last : s.ctr = 0xFFFF
  · rw [advanceCounter_of_last last, if_pos last, if_pos last, ← last]
    rfl
  · rw [advanceCounter_of_ne last, if_neg last, if_neg last]
    rfl

/-- Settles O46: BOUT is block 0 of a session of XREM bytes. -/
theorem xblockTransformsTheNextBytes : Obligations.XblockTransformsTheNextBytes := by
  refine ⟨decode_encode .xblock, fun s => ⟨fun emits isOpen => ?_, fun noKey => withSequence_of_noKey noKey _,
    fun keyed closed => withSequence_of_wrong keyed closed _,
    fun exhausted isOpen => withSequence_unlessExhausted_of_exhausted exhausted isOpen _⟩⟩
  refine ⟨_, _, (exec_xblock_of_canEmit emits isOpen).trans (congrArg _ (afterXblock_eq s)), xrem_sub_chunkSize s,
    fun j hj => ?_⟩
  rw [blockByte_clip _ _ _ hj, blockByte_xor, Nat.mul_zero, Nat.zero_add]
  rfl

/-- Settles O27: NOKEY and a closed session are told first, and an open one has a stream that can emit (R42 item 4). -/
theorem sessionNeverMeetsAnExhaustedStream : Obligations.SessionNeverMeetsAnExhaustedStream := by
  intro s t inv h
  by_cases closed : s.xrem = 0
  · by_cases noKey : s.stream = .noKey
    · rw [exec_xblock, withSequence_of_noKey noKey] at h
      cases h; exact nofun
    · rw [exec_xblock, withSequence_of_wrong noKey closed] at h
      cases h; exact nofun
  · obtain ⟨emits, _⟩ := inv.sessionFits closed
    rw [exec_xblock_of_canEmit emits closed] at h
    cases h; exact nofun

/-- Settles O54: the counter is the low half word of what the cipher, which joins no two blocks, is given (R148, R172). -/
theorem counterValuesGiveDistinctBlocks : Obligations.CounterValuesGiveDistinctBlocks := by
  intro s t sameKsw sameIvl0 sameIvl1H ctrNe same
  rw [keystreamBlock, keystreamBlock, sameKsw, sameIvl0, sameIvl1H] at same
  exact ctrNe ((BitVec.append_right_inj _).mp (blockRounds_injective t.ksw 0 12 same))

end Sys2Proof.Machine
end

section
/-! PROOFS. The events of a stream (R170, R174): what a step does to STATE and CTR. -/

namespace Sys2Proof.Machine

/-- What a command does to STATE and CTR when it ends (R170). -/
theorem CommandEnd.stream_ctr {i : Instr} {s t : State} (ended : CommandEnd s i t) :
    (t.stream = s.stream ∧ t.ctr = s.ctr) ∨
    (i = .clear ∧ t.stream = .noKey ∧ t.ctr = 0) ∨
    ((i = .expand 16 ∨ (i = .ctrrst ∧ Keyed s)) ∧ t.stream = .init ∧ t.ctr = 0) ∨
    ((i = .ksblk ∨ i = .xblock) ∧ CanEmit s ∧ t.stream = (advanceCounter s).stream ∧
      t.ctr = (advanceCounter s).ctr) := by
  cases ended with
  | error | nop | wordResult | blockResult | xstart => exact .inl ⟨rfl, rfl⟩
  | clear => exact .inr (.inl ⟨rfl, rfl, rfl⟩)
  | expand => exact .inr (.inr (.inl ⟨.inl rfl, rfl, rfl⟩))
  | ctrrst keyed => exact .inr (.inr (.inl ⟨.inr ⟨rfl, keyed⟩, rfl, rfl⟩))
  | ksblk emits => exact .inr (.inr (.inr ⟨.inl rfl, emits, rfl, rfl⟩))
  | xblock emits => exact .inr (.inr (.inr ⟨.inr rfl, emits, rfl, rfl⟩))

/-- The events of R170, each with the STATE and the CTR it leads to. -/
inductive StreamEvent (s t : State) : Prop
  | kept (stream : t.stream = s.stream) (ctr : t.ctr = s.ctr)
  | cleared (cause : ResetNext s ∨ Commits s .clear) (stream : t.stream = .noKey) (ctr : t.ctr = 0)
  | restarted (cause : Commits s (.expand 16) ∨ (Commits s .ctrrst ∧ Keyed s)) (stream : t.stream = .init)
      (ctr : t.ctr = 0)
  | emitted (cause : Commits s .ksblk ∨ Commits s .xblock) (emits : CanEmit s)
      (stream : t.stream = (advanceCounter s).stream) (ctr : t.ctr = (advanceCounter s).ctr)

theorem step_streamEvent {s t : State} (h : step s = .next t) : StreamEvent s t := by
  cases step_done h with
  | illegal eq => subst eq; exact .kept rfl rfl
  | reset next c eq => subst eq; exact .cleared (.inl next) rfl rfl
  | port cycle => exact .kept cycle.stream cycle.ctr
  | command i commits ended =>
    rcases ended.stream_ctr with ⟨stream, ctr⟩ | ⟨rfl, stream, ctr⟩ | ⟨rfl | ⟨rfl, keyed⟩, stream, ctr⟩ |
      ⟨rfl | rfl, emits, stream, ctr⟩
    · exact .kept stream ctr
    · exact .cleared (.inr commits) stream ctr
    · exact .restarted (.inl commits) stream ctr
    · exact .restarted (.inr ⟨commits, keyed⟩) stream ctr
    · exact .emitted (.inl commits) emits stream ctr
    · exact .emitted (.inr commits) emits stream ctr

/-- Settles O29: an emission takes CTR one up, but for the last value, where it stays. -/
theorem counterNeverWraps : Obligations.CounterNeverWraps := by
  intro s t h changed
  cases step_streamEvent h with
  | kept _ ctr => exact absurd ctr changed
  | cleared cause _ ctr =>
    rcases cause with reset | clear
    · exact .inr ⟨ctr, .inl reset⟩
    · exact .inr ⟨ctr, .inr (.inl clear)⟩
  | restarted cause _ ctr =>
    rcases cause with expand | ⟨ctrrst, _⟩
    · exact .inr ⟨ctr, .inr (.inr (.inr expand))⟩
    · exact .inr ⟨ctr, .inr (.inr (.inl ctrrst))⟩
  | emitted cause emits _ ctr =>
    rcases ctr_eq_last_or_lt s.ctr with last | lt
    · rw [advanceCounter_of_last last] at ctr
      exact absurd ctr changed
    · refine .inl ⟨?_, emits, cause⟩
      rw [ctr, (advanceCounter_of_lt (Nat.succ_lt_succ lt)).2]

/-! ### The events by their causes -/

/-- A legal word that is due runs as its command (R200). -/
theorem step_of_commits {s : State} {i : Instr} (commits : Commits s i) : step s = exec i s := by
  obtain ⟨v, due, hd⟩ := commits
  rcases step_cases s with ⟨w, hw, hs⟩ | ⟨notDue, _⟩
  · rw [due] at hw; cases hw
    rw [hs, commitWord_of_decode hd]
  · exact absurd due (notDue v)

theorem stream_of_resetNext {s t : State} (next : ResetNext s) (h : step s = .next t) : t.stream = .noKey := by
  obtain ⟨notDue, a, rest, inbox⟩ := next
  rw [step_of_notDue_cons notDue inbox] at h
  rcases serveSlot_resetHeld_cases a { countDown s with inbox := rest } with hs | ⟨_, _, _, hs⟩ <;> rw [hs] at h
  · cases h; rfl
  · cases h

theorem exec_expand_sixteen (s : State) :
    exec (.expand 16) s = .next (afterOk (restartStream (latchIv { s with ksw := keySchedule s.seed }))) := rfl

/-- The step that commits a command which ends in `u` leads to `u`. -/
theorem eq_of_commits {s t u : State} {i : Instr} (commits : Commits s i) (runs : exec i s = .next u)
    (h : step s = .next t) : t = u := by
  rw [step_of_commits commits, runs] at h
  cases h; rfl

/-- Both commands that emit, where they can, leave STATE as one emission does (R173). -/
theorem stream_of_emission {s t : State} (h : step s = .next t) (emits : CanEmit s)
    (cause : (Commits s .ksblk ∧ s.xrem = 0) ∨ (Commits s .xblock ∧ s.xrem ≠ 0)) :
    t.stream = (advanceCounter s).stream := by
  rcases cause with ⟨ksblk, closed⟩ | ⟨xblock, isOpen⟩
  · rw [eq_of_commits ksblk (exec_ksblk_of_canEmit emits closed) h]; rfl
  · rw [eq_of_commits xblock (exec_xblock_of_canEmit emits isOpen) h]; rfl

/-- Settles O28: the changes by `step_streamEvent`, and each cause by the command or the reset that it names. -/
theorem streamStateChangesOnlyAsListed : Obligations.StreamStateChangesOnlyAsListed := by
  intro s t h
  refine ⟨fun changed => ?_, ?_, fun expand => ?_, fun ctrrst keyed => ?_, fun cause emits => ?_⟩
  · cases step_streamEvent h with
    | kept stream => exact absurd stream changed
    | cleared cause stream => exact .inl ⟨stream, cause⟩
    | restarted cause stream => exact .inr (.inl ⟨stream, cause⟩)
    | emitted cause emits stream =>
      rcases ctr_eq_last_or_lt s.ctr with last | lt
      · rw [advanceCounter_of_last last] at stream
        exact .inr (.inr (.inr ⟨stream, emits, last, cause⟩))
      · rw [advanceCounter_of_ne (ctr_ne_last_of_lt lt)] at stream
        exact .inr (.inr (.inl ⟨stream, emits, lt, cause⟩))
  · rintro (reset | clear)
    · exact stream_of_resetNext reset h
    · rw [eq_of_commits clear rfl h]; rfl
  · rw [eq_of_commits expand (exec_expand_sixteen s) h]; rfl
  · rw [eq_of_commits ctrrst ((exec_ctrrst s).trans (withKey_of_keyed keyed _)) h]; rfl
  · rw [stream_of_emission h emits cause, advanceCounter_stream]

end Sys2Proof.Machine
end

section
/-! PROOFS. Transform sessions (R176, R178, R179): what the XBLOCKs of a session give and leave behind, by induction over the
blocks of data, and from that the session and the session repeated. -/

namespace Sys2Proof.Machine

/-! ### What a session keeps, and how far it moves the stream -/

/-- `t` holds the round keys of `s` and its IV, the staging one and the latched one. -/
structure SameKeyAndIv (s t : State) : Prop where
  ksw : t.ksw = s.ksw
  iv0 : t.iv0 = s.iv0
  iv1H : t.iv1H = s.iv1H
  ivl0 : t.ivl0 = s.ivl0
  ivl1H : t.ivl1H = s.ivl1H

theorem SameKeyAndIv.trans {s t u : State} (h : SameKeyAndIv s t) (k : SameKeyAndIv t u) : SameKeyAndIv s u where
  ksw := k.ksw.trans h.ksw
  iv0 := k.iv0.trans h.iv0
  iv1H := k.iv1H.trans h.iv1H
  ivl0 := k.ivl0.trans h.ivl0
  ivl1H := k.ivl1H.trans h.ivl1H

/-- `t` has the counter and the STATE of `s` after `n` emissions (R173, R174). -/
structure EmittedBy (n : Nat) (s t : State) : Prop where
  none : n = 0 → t.ctr = s.ctr ∧ t.stream = s.stream
  within : 0 < n → s.ctr.toNat + n < 65536 → t.ctr.toNat = s.ctr.toNat + n ∧ t.stream = .streaming
  last : s.ctr.toNat + n = 65536 → t.ctr = 0xFFFF ∧ t.stream = .exhausted

/-- No emission takes place where CTR and STATE stay; the counter has 16 bits, so it is not past its last value. -/
theorem emittedBy_zero {s t : State} (ctr : t.ctr = s.ctr) (stream : t.stream = s.stream) : EmittedBy 0 s t where
  none _ := ⟨ctr, stream⟩
  within pos := absurd pos (Nat.lt_irrefl 0)
  last full := absurd full (Nat.ne_of_lt s.ctr.isLt)

/-- One emission, and then `n` more (R173). -/
theorem EmittedBy.succ {n : Nat} {s u t : State} (ctr : u.ctr = (advanceCounter s).ctr)
    (stream : u.stream = (advanceCounter s).stream) (more : EmittedBy n u t) : EmittedBy (n + 1) s t where
  none h := nomatch h
  within _ lt := by
    obtain ⟨streaming, next⟩ := advanceCounter_of_lt (s := s) (by omega)
    rw [← ctr] at next
    rcases Nat.eq_zero_or_pos n with rfl | pos
    · obtain ⟨sameCtr, sameStream⟩ := more.none rfl
      rw [sameCtr, sameStream]
      exact ⟨next, stream.trans streaming⟩
    · obtain ⟨total, stays⟩ := more.within pos (by omega)
      exact ⟨by omega, stays⟩
  last full := by
    rcases Nat.eq_zero_or_pos n with rfl | pos
    · obtain ⟨sameCtr, sameStream⟩ := more.none rfl
      have hlast : s.ctr = 0xFFFF := BitVec.eq_of_toNat_eq (Nat.succ.inj full)
      rw [sameCtr, sameStream, ctr, stream, advanceCounter_of_last hlast]
      exact ⟨hlast, rfl⟩
    · obtain ⟨_, next⟩ := advanceCounter_of_lt (s := s) (by omega)
      rw [← ctr] at next
      exact more.last (by omega)

/-- Emissions leave a core that can emit one of the keyed states (R170). -/
theorem EmittedBy.keyed {n : Nat} {s t : State} (emitted : EmittedBy n s t) (emits : CanEmit s)
    (fits : s.ctr.toNat + n ≤ 65536) : Keyed t := by
  rcases Nat.eq_zero_or_pos n with rfl | pos
  · rw [Keyed, (emitted.none rfl).2]
    exact keyed_of_canEmit emits
  · rcases Nat.lt_or_eq_of_le fits with lt | full
    · simp [Keyed, (emitted.within pos lt).2]
    · exact keyed_of_exhausted (emitted.last full).2

/-! ### Blocks of a session -/

/-- The keystream block `i` emissions on from where `s` stands (R172, R173). -/
def keystreamAt (s : State) (i : Nat) : Block :=
  blockCipher s.ksw (s.ivl0 ++ s.ivl1H ++ BitVec.ofNat 16 (s.ctr.toNat + i))

theorem keystreamAt_zero (s : State) : keystreamAt s 0 = keystreamBlock s := by
  simp [keystreamAt, keystreamBlock, counterBlock]

/-- With the same keys and the same latched IV, the counter alone says which keystream block it is (R172). -/
theorem keystreamAt_congr {s t : State} {i j : Nat} (ksw : t.ksw = s.ksw) (ivl0 : t.ivl0 = s.ivl0)
    (ivl1H : t.ivl1H = s.ivl1H) (ctr : t.ctr.toNat + i = s.ctr.toNat + j) : keystreamAt t i = keystreamAt s j := by
  rw [keystreamAt, keystreamAt, ksw, ivl0, ivl1H, ctr]

/-- Block `i + 1` of a session is block `i` of what is left of it after eight bytes (R176). -/
theorem clip_sub_eight (n i : Nat) (x : Block) : clip (n - 8) i x = clip n (i + 1) x := by
  refine block_ext fun j hj => ?_
  rw [blockByte_clip _ _ _ hj, blockByte_clip _ _ _ hj]
  exact if_congr (by omega) rfl rfl

/-- XORing the same keystream block in again, past the session's end zero both times, leaves the data (R179). -/
theorem clip_xor_clip_xor (n i : Nat) (x k : Block) : clip n i (clip n i (x ^^^ k) ^^^ k) = clip n i x := by
  refine block_ext fun j hj => ?_
  rw [blockByte_clip _ _ _ hj, blockByte_xor, blockByte_clip _ _ _ hj, blockByte_clip _ _ _ hj, blockByte_xor]
  split
  · rw [BitVec.xor_assoc, BitVec.xor_self, BitVec.xor_zero]
  · rfl

/-! ### The XBLOCKs of a session -/

/-- The core after an XBLOCK on the block `d`, written to BIN (R188). -/
def afterXblockOn (d : Block) (s : State) : State := afterXblock { s with bin := d }

theorem afterXblockOn_bout (d : Block) (s : State) :
    (afterXblockOn d s).bout = clip s.xrem.toNat 0 (d ^^^ keystreamAt s 0) :=
  (afterXblock_bout _).trans (by rw [keystreamAt_zero]; rfl)

theorem afterXblockOn_xrem (d : Block) (s : State) : (afterXblockOn d s).xrem.toNat = s.xrem.toNat - 8 :=
  xrem_sub_chunkSize _

@[simp] theorem afterXblockOn_ctr (d : Block) (s : State) : (afterXblockOn d s).ctr = (advanceCounter s).ctr := by
  simp [afterXblockOn, afterXblock]

@[simp] theorem afterXblockOn_stream (d : Block) (s : State) :
    (afterXblockOn d s).stream = (advanceCounter s).stream := by
  simp [afterXblockOn, afterXblock]

theorem sameKeyAndIv_afterXblockOn (d : Block) (s : State) : SameKeyAndIv s (afterXblockOn d s) := by
  constructor <;> simp [afterXblockOn, afterXblock]

/-- After an XBLOCK before the last counter value the keystream goes on with its next block (R173). -/
theorem keystreamAt_afterXblockOn {s : State} (lt : s.ctr.toNat + 1 < 65536) (d : Block) (i : Nat) :
    keystreamAt (afterXblockOn d s) i = keystreamAt s (i + 1) := by
  obtain ⟨ksw, _, _, ivl0, ivl1H⟩ := sameKeyAndIv_afterXblockOn d s
  refine keystreamAt_congr ksw ivl0 ivl1H ?_
  rw [afterXblockOn_ctr, (advanceCounter_of_lt lt).2]
  omega

/-- An XBLOCK that can emit goes on to the rest of the blocks (R176). -/
theorem runBlocks_cons {s : State} (emits : CanEmit s) (isOpen : s.xrem ≠ 0) (d : Block) {rest out : List Block}
    {t : State} (run : runBlocks rest (afterXblockOn d s) = some (out, t)) :
    runBlocks (d :: rest) s = some ((afterXblockOn d s).bout :: out, t) := by
  have runs : exec .xblock { s with bin := d } = .next (afterXblockOn d s) := exec_xblock_of_canEmit emits isOpen
  have ok : (afterXblockOn d s).err = 0 := rfl
  simp only [runBlocks, runs, ok, run, if_true]

/-- The XBLOCKs of a session on the blocks `data`, from `s` with `len` bytes to go, have given the blocks `out` and left the
core in `t`, with no byte to go. -/
structure SessionDone (s : State) (len : Nat) (data out : List Block) (t : State) : Prop where
  setup : SameKeyAndIv s t
  closed : t.xrem = 0
  emitted : EmittedBy data.length s t
  length : out.length = data.length
  blocks : ∀ i < data.length, out.getD i 0 = clip len i (data.getD i 0 ^^^ keystreamAt s i)

theorem sessionDone_nil {s : State} (closed : s.xrem = 0) (len : Nat) : SessionDone s len [] [] s where
  setup := ⟨rfl, rfl, rfl, rfl, rfl⟩
  closed := closed
  emitted := emittedBy_zero rfl rfl
  length := rfl
  blocks _ hi := nomatch hi

/-- An XBLOCK on the block `d`, and then those on the blocks left. -/
theorem SessionDone.cons {s t : State} {d : Block} {rest out : List Block}
    (fits : s.ctr.toNat + (rest.length + 1) ≤ 65536)
    (done : SessionDone (afterXblockOn d s) (s.xrem.toNat - 8) rest out t) :
    SessionDone s s.xrem.toNat (d :: rest) ((afterXblockOn d s).bout :: out) t where
  setup := (sameKeyAndIv_afterXblockOn d s).trans done.setup
  closed := done.closed
  emitted := done.emitted.succ (afterXblockOn_ctr d s) (afterXblockOn_stream d s)
  length := congrArg (· + 1) done.length
  blocks := by
    rintro (_ | i) hi
    · exact afterXblockOn_bout d s
    · have hi : i < rest.length := Nat.lt_of_succ_lt_succ hi
      show out.getD i 0 = clip s.xrem.toNat (i + 1) (rest.getD i 0 ^^^ keystreamAt s (i + 1))
      rw [done.blocks i hi, clip_sub_eight, keystreamAt_afterXblockOn (by omega)]

/-- The XBLOCKs of a session complete where the stream has a counter value left for each (R176, R177). With no block to come
the stream may be exhausted. -/
theorem runBlocks_done (data : List Block) {s : State} (emits : data ≠ [] → CanEmit s)
    (blocks : data.length = (s.xrem.toNat + 7) / 8) (fits : s.ctr.toNat + data.length ≤ 65536) :
    ∃ out t, runBlocks data s = some (out, t) ∧ SessionDone s s.xrem.toNat data out t := by
  induction data generalizing s with
  | nil =>
    rw [List.length_nil] at blocks
    have closed : s.xrem = 0 := by bv_omega
    exact ⟨[], s, rfl, sessionDone_nil closed _⟩
  | cons d rest ih =>
    rw [List.length_cons] at blocks fits
    have isOpen : s.xrem ≠ 0 := fun closed => by simp [closed] at blocks
    have restEmits : rest ≠ [] → CanEmit (afterXblockOn d s) := fun ne => by
      have pos := List.length_pos_of_ne_nil ne
      exact .inr ((afterXblockOn_stream d s).trans (advanceCounter_of_lt (by omega)).1)
    have restBlocks : rest.length = ((afterXblockOn d s).xrem.toNat + 7) / 8 := by
      rw [afterXblockOn_xrem]
      omega
    have restFits : (afterXblockOn d s).ctr.toNat + rest.length ≤ 65536 := by
      rw [afterXblockOn_ctr]
      have := advanceCounter_ctr_le s
      omega
    obtain ⟨out, t, run, done⟩ := ih restEmits restBlocks restFits
    rw [afterXblockOn_xrem] at done
    exact ⟨_, t, runBlocks_cons (emits (List.cons_ne_nil d rest)) isOpen d run, done.cons fits⟩

/-! ### XSTART, and then the XBLOCKs -/

/-- XSTART goes on to the XBLOCKs (R176). -/
theorem runTransform_eq {s : State} {len : Word} (keyed : Keyed s) (closed : s.xrem = 0)
    (fits : (len.toNat + 7) / 8 ≤ blocksLeft s) (data : List Block) :
    runTransform len data s = runBlocks data (afterXstart { s with length := len }) := by
  have runs : exec .xstart { s with length := len } = .next (afterXstart { s with length := len }) :=
    exec_xstart_of_le keyed closed fits
  have ok : (afterXstart { s with length := len }).err = 0 := rfl
  simp only [runTransform, runs, ok, if_true]

/-- XSTART touches neither the keys nor the IV nor the stream, so the session is one from the state before it. -/
theorem SessionDone.of_afterXstart {s t : State} {len : Word} {n : Nat} {data out : List Block}
    (done : SessionDone (afterXstart { s with length := len }) n data out t) : SessionDone s n data out t where
  setup :=
    have start : SameKeyAndIv s (afterXstart { s with length := len }) := ⟨rfl, rfl, rfl, rfl, rfl⟩
    start.trans done.setup
  closed := done.closed
  emitted := ⟨done.emitted.none, done.emitted.within, done.emitted.last⟩
  length := done.length
  blocks := done.blocks

/-- A session completes where the stream has blocks enough left (R176, R177). -/
theorem runTransform_done {s : State} {len : Word} {data : List Block} (emits : CanEmit s) (closed : s.xrem = 0)
    (blocks : data.length = (len.toNat + 7) / 8) (fits : data.length ≤ 65536 - s.ctr.toNat) :
    ∃ out t, runTransform len data s = some (out, t) ∧ SessionDone s len.toNat data out t := by
  have left : (len.toNat + 7) / 8 ≤ blocksLeft s := by rwa [blocksLeft_of_canEmit emits, ← blocks]
  have counters : s.ctr.toNat + data.length ≤ 65536 := by omega
  obtain ⟨out, t, run, done⟩ :=
    runBlocks_done data (s := afterXstart { s with length := len }) (fun _ => emits) blocks counters
  exact ⟨out, t, (runTransform_eq (keyed_of_canEmit emits) closed left data).trans run, done.of_afterXstart⟩

/-- Settles O57. -/
theorem sessionOutputIsDataXorKeystream : Obligations.SessionOutputIsDataXorKeystream := by
  intro s len data emits closed blocks fits
  obtain ⟨out, t, run, done⟩ := runTransform_done emits closed blocks fits
  exact ⟨out, t, run, done.length, done.blocks⟩

/-- Settles O58: by whether the session's last block is at the last counter value. -/
theorem sessionAdvancesTheCounterByItsBlocks : Obligations.SessionAdvancesTheCounterByItsBlocks := by
  intro s len data emits closed blocks fits
  obtain ⟨out, t, run, done⟩ := runTransform_done emits closed blocks fits
  refine ⟨out, t, run, done.closed, fun lt => ?_, done.emitted.last,
    fun noData => done.emitted.none (List.length_eq_zero_iff.mpr noData)⟩
  rcases Nat.eq_zero_or_pos data.length with none | pos
  · obtain ⟨ctr, stream⟩ := done.emitted.none none
    rw [ctr, stream, none]
    exact ⟨rfl, not_exhausted_of_canEmit emits⟩
  · obtain ⟨ctr, stream⟩ := done.emitted.within pos lt
    exact ⟨ctr, by simp [stream]⟩

/-! ### CTRRST, and then a session -/

theorem canEmit_afterCtrrst (s : State) : CanEmit (afterCtrrst s) := .inl rfl

/-- CTRRST goes on to the session (R179). -/
theorem runSession_eq {s : State} (keyed : Keyed s) (len : Word) (data : List Block) :
    runSession len data s = runTransform len data (afterCtrrst s) := by
  have runs : exec .ctrrst s = .next (afterCtrrst s) := (exec_ctrrst s).trans (withKey_of_keyed keyed _)
  have ok : (afterCtrrst s).err = 0 := rfl
  simp only [runSession, runs, ok, if_true]

/-- On a restarted stream a session of up to 524288 bytes completes (R177), and keys are still held after it. -/
theorem runSession_done {s : State} {len : Word} {data : List Block} (keyed : Keyed s) (bound : len.toNat ≤ 524288)
    (blocks : data.length = (len.toNat + 7) / 8) :
    ∃ out t, runSession len data s = some (out, t) ∧ Keyed t ∧ SessionDone (afterCtrrst s) len.toNat data out t := by
  have fits : data.length ≤ 65536 := by omega
  obtain ⟨out, t, run, done⟩ := runTransform_done (canEmit_afterCtrrst s) rfl blocks fits
  have counters : (afterCtrrst s).ctr.toNat + data.length ≤ 65536 := (Nat.zero_add _).trans_le fits
  exact ⟨out, t, (runSession_eq keyed len data).trans run, done.emitted.keyed (canEmit_afterCtrrst s) counters, done⟩

/-- After a session CTRRST restarts the same keystream: the keys and the staging IV are still there (R179, R185). -/
theorem SessionDone.keystreamAt_restarted {s t : State} {len : Nat} {data out : List Block}
    (done : SessionDone (afterCtrrst s) len data out t) (i : Nat) :
    keystreamAt (afterCtrrst t) i = keystreamAt (afterCtrrst s) i :=
  keystreamAt_congr done.setup.ksw done.setup.iv0 done.setup.iv1H rfl

/-- Settles O59: both sessions XOR the same keystream in. -/
theorem transformTwiceRestoresTheData : Obligations.TransformTwiceRestoresTheData := by
  intro s len data keyed bound blocks
  obtain ⟨out, t, run, keyedAfter, done⟩ := runSession_done keyed bound blocks
  obtain ⟨back, u, runBack, _, doneBack⟩ := runSession_done keyedAfter bound (done.length.trans blocks)
  refine ⟨out, back, t, u, run, runBack, doneBack.length.trans done.length, fun i hi => ?_⟩
  rw [doneBack.blocks i (hi.trans_eq done.length.symm), done.blocks i hi, done.keystreamAt_restarted,
    clip_xor_clip_xor]

end Sys2Proof.Machine
end

section
/-! PROOFS. The commit of a due command (R200), and the control commands NOP and CLEAR (R201, R202). -/

namespace Sys2Proof.Machine

/-! ### The commit -/

/-- Settles O5: the decoded command is the one that the step commits. -/
theorem stepRunsTheDecodedCommand : Obligations.StepRunsTheDecodedCommand :=
  fun _ v _ due decodes => step_of_commits ⟨v, due, decodes⟩

/-! ### NOP -/

/-- NOP writes nothing before its normal end (R201). -/
theorem exec_nop (s : State) : exec .nop s = .next (afterOk s) := commitOk_eq_afterOk s

/-- Settles O32. -/
theorem nopWritesErrOnly : Obligations.NopWritesErrOnly := ⟨decode_encode .nop, exec_nop⟩

/-! ### CLEAR -/

/-- A normal end changes nothing after a reset: ERR, BUSY and PENDING hold its values already (R43, R200). -/
theorem afterOk_resetCore (s : State) : afterOk (resetCore s) = resetCore s := rfl

/-- CLEAR ends in the reset values (R202). -/
theorem exec_clear (s : State) : exec .clear s = .next (resetCore s) :=
  calc exec .clear s
    _ = .next (afterOk (resetCore s)) := commitOk_eq_afterOk (resetCore s)
    _ = .next (resetCore s) := by rw [afterOk_resetCore]

/-- Settles O33. -/
theorem clearResetsEveryField : Obligations.ClearResetsEveryField := ⟨decode_encode .clear, exec_clear⟩

end Sys2Proof.Machine
end

section
/-! PROOFS. The errors (R210 to R219): what an error leaves as it was, that ERR takes the first outcome in the list of R219,
and the commit of an illegal word. -/

namespace Sys2Proof.Machine

/-! ### An error changes ERR alone -/

theorem CommandEnd.error_or_err_zero {i : Instr} {s t : State} (ended : CommandEnd s i t) :
    (∃ e, raisable e = true ∧ t = finish e s) ∨ t.err = 0 := by
  cases ended with
  | error raised => exact .inl ⟨_, raised, rfl⟩
  | nop | clear | expand | ctrrst | wordResult | blockResult | ksblk | xstart | xblock => exact .inr rfl

/-- Settles O20: every end of a command that is not an error has ERR = 0. -/
theorem errorChangesNothingButErr : Obligations.ErrorChangesNothingButErr := by
  intro i s t h err
  rcases (exec_end h).error_or_err_zero with ⟨e, _, rfl⟩ | zero
  · rfl
  · exact absurd zero err

/-! ### The first error in the order of R219

The checks of a command and the list of R219 are both chains of conditions; the rules below walk down the two together. -/

/-- `o` is the end of a command with the outcome `code` (R200). -/
def EndsWith (code : BitVec 4) (o : Host.Outcome State Fault Refusal) : Prop :=
  ∃ t, o = .next t ∧ t.err = code ∧ t.busy = false ∧ t.pending = none

theorem endsWith_finish (e : ErrorCode) (s : State) : EndsWith (errCode e) (.next (finish e s)) :=
  ⟨_, rfl, rfl, rfl, rfl⟩

theorem EndsWith.ite {cause check : Prop} [Decidable cause] [Decidable check] {c c' : BitVec 4}
    {o o' : Host.Outcome State Fault Refusal} (same : cause ↔ check) (fails : EndsWith c o) (goesOn : EndsWith c' o') :
    EndsWith (if cause then c else c') (if check then o else o') := by
  by_cases h : check
  · rwa [if_pos h, if_pos (same.mpr h)]
  · rwa [if_neg h, if_neg (mt same.mp h)]

/-- The check for round keys is the cause NoKey (R216). -/
theorem EndsWith.withKey {s : State} {c : BitVec 4} {o : Host.Outcome State Fault Refusal} (goesOn : EndsWith c o) :
    EndsWith (if s.stream = .noKey then 5 else c) (withKey s o) :=
  .ite .rfl (endsWith_finish .noKey s) goesOn

/-- No command that needs round keys has a seed length, so the list of R219 loses InvalidKeyLength. -/
theorem outcomeOf_of_needsKey {i : Instr} (needs : needsKey i = true) (s : State) :
    outcomeOf i s =
      if i.wf = false then 6
      else if s.stream = .noKey then 5
      else if outOfSequence i s then 7
      else if asksExhausted i s then 4
      else if asksTooLong i s then 3
      else 0 := by
  have noLength : badLength i = false := by
    cases i with
    | expand => cases needs
    | _ => rfl
  simp [outcomeOf, needs, noLength]

/-- The cause of a StreamTooLong, with the model's `blocks_left()` (R171, R214). -/
theorem asksTooLong_xstart_iff (s : State) :
    asksTooLong .xstart s = true ↔ ceilDiv s.length.toNat 8 > blocksLeft s := by
  cases hst : s.stream <;> simp [asksTooLong, blocksLeft, ceilDiv, hst]

theorem exec_expand_endsWith (len : Byte) (s : State) :
    EndsWith (outcomeOf (.expand len) s) (exec (.expand len) s) := by
  have onlyLength : outcomeOf (.expand len) s = if badLength (.expand len) then 1 else 0 := rfl
  have cause : badLength (.expand len) = true ↔ len ≠ 16 := by simp [badLength, ← BitVec.toNat_inj]
  rw [onlyLength]
  exact .ite cause (endsWith_finish .invalidKeyLength s) (endsWith_finish .ok _)

/-- Each check that a command which needs round keys makes is the next cause of R219 that it can have. -/
theorem exec_endsWith_of_needsKey {i : Instr} (needs : needsKey i = true) (s : State) :
    EndsWith (outcomeOf i s) (exec i s) := by
  rw [outcomeOf_of_needsKey needs]
  cases i with
  | ctrrst | encrypt => exact .withKey (endsWith_finish .ok _)
  | round k | kmix k =>
    exact .ite (by simp [Instr.wf]) (endsWith_finish .illegalCommand s) (.withKey (endsWith_finish .ok _))
  | ksblk | xblock =>
    exact .withKey <| .ite (by simp [outOfSequence]) (endsWith_finish .sequenceError s) <|
      .ite (by simp [asksExhausted]) (endsWith_finish .streamExhausted s) (endsWith_finish .ok _)
  | xstart =>
    have neverExhausted : asksExhausted .xstart s = false := rfl
    rw [neverExhausted, if_neg Bool.false_ne_true]
    exact .withKey <| .ite (by simp [outOfSequence]) (endsWith_finish .sequenceError s) <|
      .ite (asksTooLong_xstart_iff s) (endsWith_finish .streamTooLong s) (endsWith_finish .ok _)
  | nop | clear | expand | wtrans | subw | rotw | perm | subb => cases needs

/-- Settles O21: the commands that need no round keys have no error, but for EXPAND. -/
theorem firstErrorInPriorityOrderIsReported : Obligations.FirstErrorInPriorityOrderIsReported := by
  intro i s
  cases i with
  | nop | clear | wtrans | subw | rotw | perm | subb => exact endsWith_finish .ok _
  | expand len => exact exec_expand_endsWith len s
  | ctrrst | round | encrypt | kmix | ksblk | xstart | xblock => exact exec_endsWith_of_needsKey rfl s

/-- The whole end of a command with a cause of R219: its code in ERR, and nothing else (R210). -/
theorem exec_of_outcomeOf {i : Instr} {s : State} {code : BitVec 4} (outcome : outcomeOf i s = code)
    (isError : code ≠ 0) : exec i s = .next (afterError code s) := by
  obtain ⟨t, runs, err, _, _⟩ := firstErrorInPriorityOrderIsReported i s
  have code_eq : t.err = code := err.trans outcome
  rw [runs, errorChangesNothingButErr i s t runs (code_eq ▸ isError), code_eq]

/-! ### NoKey and SequenceError -/

theorem needsKey_iff {i : Instr} :
    needsKey i = true ↔
      i ∈ [Instr.ctrrst, .encrypt, .ksblk, .xstart, .xblock] ∨ (∃ k, i = .kmix k) ∨ (∃ k, i = .round k) := by
  cases i <;> simp [needsKey]

/-- Settles O23: where the word is legal, NoKey is the first cause in the list. -/
theorem keyedCommandsRaiseNoKeyBeforeExpand : Obligations.KeyedCommandsRaiseNoKeyBeforeExpand := by
  intro i s wf noKey command
  refine exec_of_outcomeOf ?_ (by decide)
  rw [outcomeOf_of_needsKey (needsKey_iff.mpr command), wf, noKey]
  rfl

/-- Settles O24: the check of the order of requests comes right after the one for round keys. -/
theorem outOfSequenceRequestsChangeErrOnly : Obligations.OutOfSequenceRequestsChangeErrOnly := by
  intro s keyed
  rw [exec_ksblk, exec_xstart, exec_xblock]
  exact ⟨fun isOpen => withSequence_of_wrong keyed isOpen _, fun isOpen => withSequence_of_wrong keyed isOpen _,
    fun closed => withSequence_of_wrong keyed closed _⟩

/-! ### IllegalCommand -/

/-- A word that is due, legal or not, commits in the next step (R200, log 4). -/
theorem step_of_due {s : State} {v : Word} (due : s.pending = some ⟨v, 0⟩) : step s = commitWord v s := by
  rcases step_cases s with ⟨w, hw, hs⟩ | ⟨notDue, _⟩
  · rw [due] at hw; cases hw
    exact hs
  · exact absurd due (notDue v)

/-- Settles O6: each of the four causes breaks its item of R81. -/
theorem illegalWordChangesErrOnly : Obligations.IllegalWordChangesErrOnly := by
  intro s v due cause
  rw [step_of_due due]
  refine commitWord_of_not_legal ?_ s
  rintro ⟨reserved, op, unused, index⟩
  rcases cause with badOp | badReserved | ⟨_, noArg, badArg⟩ | ⟨indexed, badIndex⟩
  · exact badOp op
  · exact badReserved reserved
  · exact badArg (unused noArg)
  · exact absurd (index indexed) (Nat.not_le.mpr badIndex)

/-! ### The codes of ERR -/

theorem CommandEnd.err_mem {i : Instr} {s t : State} (ended : CommandEnd s i t) :
    t.err ∈ ([0, 1, 3, 4, 5, 6, 7] : List (BitVec 4)) := by
  rcases ended.error_or_err_zero with ⟨e, raised, rfl⟩ | zero
  · exact errCode_mem (ne_shapeMismatch_of_raisable raised)
  · rw [zero]; exact .head _

/-- Settles O22: a commit leaves one of the codes of R211 but 2 in ERR, a reset leaves 0, and the port no other code. -/
theorem shapeMismatchIsNeverRaised : Obligations.ShapeMismatchIsNeverRaised := by
  intro s t before h
  cases step_done h with
  | command i _ ended => exact ended.err_mem
  | illegal eq => rw [eq]; exact errCode_mem (e := .illegalCommand) nofun
  | reset _ c eq => rw [eq]; exact .head _
  | port cycle => exact cycle.err.symm ▸ before

end Sys2Proof.Machine
end

section
/-! PROOFS. The whole BUSY window (R254), cycle by cycle up to the commit: after each cycle the command waits one less, and
only DROP and the port's lists can have moved. -/

namespace Sys2Proof.Machine

/-- The slot neither asserts reset nor holds a narrow access: no slot of this kind ends the wait for a commit (R62, R250). -/
def Slot.LetsWait (slot : Slot) : Prop :=
  slot = .idle ∨ (∃ off, slot = .access (.read .word off)) ∨ ∃ off x, slot = .access (.write .word off x)

/-- One cycle of the BUSY window, whatever its slot does to DROP and to the list of replies (R24, R255, R256). -/
theorem step_of_letsWait {s : State} {v : Word} {n : Nat} (busy : s.busy = true) (pending : s.pending = some ⟨v, n + 1⟩)
    (waits : ∀ slot ∈ s.inbox.head?, slot.LetsWait) : ∃ d r,
    step s = .next { s with pending := some ⟨v, n⟩, inbox := s.inbox.tail, drop := d, replies := r } := by
  obtain ⟨onNothing, onIdle, onWrite, onRead⟩ := busyWindowKeepsEveryRegister s v n busy pending
  cases inbox : s.inbox with
  | nil => exact ⟨s.drop, s.replies, by rw [onNothing inbox, List.tail_nil, ← inbox]⟩
  | cons slot rest =>
    rcases waits slot (by simp [inbox]) with rfl | ⟨off, rfl⟩ | ⟨off, x, rfl⟩
    · exact ⟨_, _, onIdle rest inbox⟩
    · exact ⟨_, _, onRead off rest inbox⟩
    · exact ⟨_, _, onWrite off x rest inbox⟩

/-- The window from any cycle of it up to the instant of the commit (R254). -/
theorem run_to_commit {v : Word} (n : Nat) {s : State} (busy : s.busy = true) (pending : s.pending = some ⟨v, n⟩)
    (waits : ∀ slot ∈ s.inbox.take n, slot.LetsWait) : ∃ d r,
    Host.Core.run Sys2Proof.core n s =
      .next { s with pending := some ⟨v, 0⟩, inbox := s.inbox.drop n, drop := d, replies := r } := by
  induction n generalizing s with
  | zero => exact ⟨s.drop, s.replies, by rw [← pending]; rfl⟩
  | succ n ih =>
    have first : ∀ slot ∈ s.inbox.head?, slot.LetsWait := fun slot h =>
      waits slot (List.mem_of_mem_head? (by rwa [List.head?_take, if_neg (Nat.succ_ne_zero n)]))
    have others : ∀ slot ∈ s.inbox.tail.take n, slot.LetsWait := fun slot h =>
      waits slot (List.mem_of_mem_tail (by rwa [List.tail_take_eq_take_tail, Nat.add_sub_cancel]))
    obtain ⟨d, r, cycle⟩ := step_of_letsWait busy pending first
    obtain ⟨d', r', run⟩ := ih (s := { s with pending := some ⟨v, n⟩, inbox := s.inbox.tail, drop := d, replies := r })
      busy rfl others
    exact ⟨d', r', by rw [run_succ cycle, run, List.drop_tail]⟩

/-- Settles O9: the window, and then the word that is due. -/
theorem everyPendingCommandComesToItsCommit : Obligations.EveryPendingCommandComesToItsCommit := by
  intro n s v busy pending waits
  obtain ⟨d, r, run⟩ := run_to_commit n busy pending waits
  exact ⟨_, run, rfl, step_of_due rfl⟩

end Sys2Proof.Machine
end

section
/-! PROOFS. Reset while it is asserted (R250), with a commit due before it or not, and the window after reset and after CLEAR
(R251). -/

namespace Sys2Proof.Machine

/-! ### A commit leaves the port alone -/

/-- `t` has the three fields of `s` that are the model's own: the port's lists and the count of draws (log 8). -/
structure SamePort (s t : State) : Prop where
  inbox : t.inbox = s.inbox
  replies : t.replies = s.replies
  draws : t.draws = s.draws

/-- A reset keeps nothing but the model's own fields (R43, R250). -/
theorem SamePort.resetCore_eq {s t : State} (same : SamePort s t) : resetCore t = resetCore s := by
  rw [resetCore, same.inbox, same.replies, same.draws, resetCore]

theorem CommandEnd.samePort {i : Instr} {s t : State} (ended : CommandEnd s i t) : SamePort s t := by
  cases ended <;> constructor <;> simp

/-- A due commit goes on, with nothing pending and the port as it was (R69, R200). -/
theorem step_of_due_samePort {s : State} {v : Word} (due : s.pending = some ⟨v, 0⟩) :
    ∃ t, step s = .next t ∧ t.pending = none ∧ SamePort s t := by
  obtain ⟨t, commit, _, nonePending, _⟩ := commitWord_next v s
  refine ⟨t, (step_of_due due).trans commit, nonePending, ?_⟩
  rcases commitWord_cases v s with ⟨i, _, hc⟩ | ⟨_, hc⟩ <;> rw [hc] at commit
  · exact (exec_end commit).samePort
  · cases commit; exact ⟨rfl, rfl, rfl⟩

/-! ### Reset held -/

/-- A cycle with reset asserted and no narrow access abandons a command that is not due (R250). -/
theorem step_of_resetHeld {s : State} {a : Option Access} {rest : List Slot} (notDue : ∀ v, s.pending ≠ some ⟨v, 0⟩)
    (inbox : s.inbox = .resetHeld a :: rest) (wide : a.any isNarrow = false) :
    step s = .next (resetCore { s with inbox := rest }) := by
  have countdown : SamePort { s with inbox := rest } { countDown s with inbox := rest } := by
    rw [countDown_eq]; exact ⟨rfl, rfl, rfl⟩
  rw [step_of_notDue_cons notDue inbox, ← countdown.resetCore_eq]
  rcases serveSlot_resetHeld_cases a { countDown s with inbox := rest } with reset | ⟨b, rfl, narrow, _⟩
  · exact reset
  · rw [Option.any_some, narrow] at wide; cases wide

/-- Settles O18: a commit that is due leaves the slot with reset at the port, and the step after it resets the core. -/
theorem heldResetAbandonsTheCommand : Obligations.HeldResetAbandonsTheCommand := by
  intro s a rest inbox access
  have wide : a.any isNarrow = false := by
    rcases access with rfl | ⟨off, rfl⟩ | ⟨off, x, rfl⟩ <;> rfl
  refine ⟨fun notDue => step_of_resetHeld notDue inbox wide, fun v due => ?_⟩
  obtain ⟨t, commit, nonePending, same⟩ := step_of_due_samePort due
  have notDue : ∀ v, t.pending ≠ some ⟨v, 0⟩ := by simp [nonePending]
  have reset : step t = .next (resetCore { t with inbox := rest }) :=
    step_of_resetHeld notDue (same.inbox.trans inbox) wide
  have kept : SamePort { s with inbox := rest } { t with inbox := rest } := ⟨rfl, same.replies, same.draws⟩
  rw [run_succ commit, run_succ reset, run_zero, kept.resetCore_eq]
  rfl

/-! ### The window after a reset -/

/-- The reset value of every register reads as zero: STATUS too, NOKEY being code 0 of STATE (R25, R43). -/
theorem readReg_reset (r : Reg) : readReg r State.reset = 0 := by
  cases r with
  | seed i | ksw i => revert i; decide
  | _ => decide

/-- No register shows the port's lists or the count of draws, which are all that a reset keeps. -/
theorem readReg_resetCore (r : Reg) (s : State) : readReg r (resetCore s) = 0 :=
  calc readReg r (resetCore s)
    _ = readReg r State.reset := by cases r <;> rfl
    _ = 0 := readReg_reset r

theorem memRead_resetCore (off : Offset) (s : State) : memRead off (resetCore s) = 0 := by
  unfold memRead
  split
  · exact readReg_resetCore _ s
  · rfl

/-- Settles O19: `State.reset` is the reset of itself, and CLEAR ends in a reset of `s`. -/
theorem everyRegisterReadsZeroAfterClear : Obligations.EveryRegisterReadsZeroAfterClear := fun off =>
  ⟨memRead_resetCore off State.reset, fun s => ⟨resetCore s, exec_clear s, memRead_resetCore off s⟩⟩

end Sys2Proof.Machine
end
